-- ==== Sys2Proof/Word.lean ====
section
/-! DEFINITION. The block's plain word types (00_scope R10, R11): every value is an unsigned bit vector or a natural. -/

namespace Sys2Proof

/-- An 8-bit value: a wavetable sample, a gain, a register's data byte. -/
abbrev Byte := BitVec 8

/-- An event word: every input to the block is exactly 32 bits (30_encoding R80, R93). -/
abbrev EventWord := BitVec 32

end Sys2Proof
end

