-- ==== Sys2Proof/Syntax.lean ====
section
/-! DEFINITION. The events: one constructor per row of spec/opcode_table.json (30_encoding R81, R87), with the operand
bits the row uses; bits that no rule uses are no operands (R80, R82, R83). -/

namespace Sys2Proof

/-- The input events. -/
inductive Instr where
  /-- REGW.SWEEP0, register 0x10 (42 R153). -/
  | regwSweep0 (d : Byte)
  /-- REGW.LENDUTY0, register 0x11 (42 R154). -/
  | regwLenduty0 (d : Byte)
  /-- REGW.ENV0, register 0x12 (42 R155). -/
  | regwEnv0 (d : Byte)
  /-- REGW.FLO0, register 0x13 (42 R156). -/
  | regwFlo0 (d : Byte)
  /-- REGW.FHI0, register 0x14 (42 R157). -/
  | regwFhi0 (d : Byte)
  /-- REGW.LENDUTY1, register 0x16 (42 R159). -/
  | regwLenduty1 (d : Byte)
  /-- REGW.ENV1, register 0x17 (42 R160). -/
  | regwEnv1 (d : Byte)
  /-- REGW.FLO1, register 0x18 (42 R161). -/
  | regwFlo1 (d : Byte)
  /-- REGW.FHI1, register 0x19 (42 R162). -/
  | regwFhi1 (d : Byte)
  /-- REGW.LEN2, register 0x1B (42 R163). -/
  | regwLen2 (d : Byte)
  /-- REGW.LVL2, register 0x1C (42 R164). -/
  | regwLvl2 (d : Byte)
  /-- REGW.FLO2, register 0x1D (42 R165). -/
  | regwFlo2 (d : Byte)
  /-- REGW.FHI2, register 0x1E (42 R166). -/
  | regwFhi2 (d : Byte)
  /-- REGW.PAT, register 0x30 + k (42 R167). -/
  | regwPat (k : BitVec 4) (d : Byte)
  /-- REGW.IGNORED, every other register (42 R168). -/
  | regwIgnored (reg d : Byte)
  /-- TICK (40 R110). -/
  | tick
  /-- FCLK (43 R190). -/
  | fclk
  /-- VPOKE.PHASE (44 R220). -/
  | vpokePhase (voice : BitVec 4) (value : BitVec 16)
  /-- VPOKE.TUNE (44 R221). -/
  | vpokeTune (voice : BitVec 4) (value : BitVec 16)
  /-- VPOKE.SEL (44 R222); only value[7:0] is used. -/
  | vpokeSel (voice : BitVec 4) (value : Byte)
  /-- VPOKE.MASK (44 R223); only value[7:0] is used. -/
  | vpokeMask (voice : BitVec 4) (value : Byte)
  /-- VPOKE.AMPL (44 R224); only value[7:0] is used. -/
  | vpokeAmpl (voice : BitVec 4) (value : Byte)
  /-- VPOKE.AMPR (44 R225); only value[7:0] is used. -/
  | vpokeAmpr (voice : BitVec 4) (value : Byte)
  /-- VPOKE.BADFIELD, field 6 or 7 (44 R226). -/
  | vpokeBadfield (voice : BitVec 4) (field : BitVec 3) (value : BitVec 16)
  /-- VPEEK.PHASE (44 R227). -/
  | vpeekPhase (voice : BitVec 4)
  /-- VPEEK.TUNE (44 R227). -/
  | vpeekTune (voice : BitVec 4)
  /-- VPEEK.SEL (44 R227). -/
  | vpeekSel (voice : BitVec 4)
  /-- VPEEK.MASK (44 R227). -/
  | vpeekMask (voice : BitVec 4)
  /-- VPEEK.AMPL (44 R227). -/
  | vpeekAmpl (voice : BitVec 4)
  /-- VPEEK.AMPR (44 R227). -/
  | vpeekAmpr (voice : BitVec 4)
  /-- VPEEK.BADFIELD, field 6 or 7 (44 R226). -/
  | vpeekBadfield (voice : BitVec 4) (field : BitVec 3)
  /-- WTWRITE (44 R228). -/
  | wtwrite (addr wdata : Byte)
  /-- WTREAD (44 R229). -/
  | wtread (addr : Byte)
  /-- OREAD (44 R230). -/
  | oread
  /-- MREAD (44 R231). -/
  | mread
  /-- INIT (44 R232). -/
  | initEvent
  /-- BEGIN (44 R233). -/
  | beginEvent
  /-- RESERVED.B, kind 0xB (30 R86). -/
  | reservedB
  /-- RESERVED.C, kind 0xC (30 R86). -/
  | reservedC
  /-- RESERVED.D, kind 0xD (30 R86). -/
  | reservedD
  /-- RESERVED.E, kind 0xE (30 R86). -/
  | reservedE
  /-- RESERVED.F, kind 0xF (30 R86). -/
  | reservedF
deriving DecidableEq, Repr

/-- The agents that send events (60_exceptions R260). -/
inductive Agent where
  | host
  | sampleTick
  | frameClock
deriving DecidableEq, Repr

end Sys2Proof
end

