-- ==== Sys2Proof/WellFormed.lean ====
section
/-! DEFINITION. The operand values each constructor admits (30_encoding R83, R87): a constructor whose row is what is
left over by other rows must not hold an operand of those rows. -/

namespace Sys2Proof

/-- The register addresses that name a row of their own, but for the pattern registers (30_encoding R87). -/
def namedRegisters : List Byte :=
  [0x10, 0x11, 0x12, 0x13, 0x14, 0x16, 0x17, 0x18, 0x19, 0x1B, 0x1C, 0x1D, 0x1E]

/-- The registers REGW decodes to a row other than IGNORED: the named ones and 0x30 to 0x3F (30_encoding R87). -/
abbrev decodedRegister (reg : Byte) : Prop :=
  reg ∈ namedRegisters ∨ 0x30 ≤ reg.toNat ∧ reg.toNat ≤ 0x3F

/-- The field codes that name no field: 6 and 7 (30_encoding R83). -/
abbrev badField (field : BitVec 3) : Prop := field = 6 ∨ field = 7

/-- Well-formed events. A voice or an address the configuration does not have is no ill-formed event: it is refused
when it is performed (44 R226, R228, R229). -/
def Instr.wellFormed : Instr → Bool
  | .regwIgnored reg _ => ! decide (decodedRegister reg)
  | .vpokeBadfield _ field _ => decide (badField field)
  | .vpeekBadfield _ field => decide (badField field)
  | .regwSweep0 _ => true
  | .regwLenduty0 _ => true
  | .regwEnv0 _ => true
  | .regwFlo0 _ => true
  | .regwFhi0 _ => true
  | .regwLenduty1 _ => true
  | .regwEnv1 _ => true
  | .regwFlo1 _ => true
  | .regwFhi1 _ => true
  | .regwLen2 _ => true
  | .regwLvl2 _ => true
  | .regwFlo2 _ => true
  | .regwFhi2 _ => true
  | .regwPat _ _ => true
  | .tick => true
  | .fclk => true
  | .vpokePhase _ _ => true
  | .vpokeTune _ _ => true
  | .vpokeSel _ _ => true
  | .vpokeMask _ _ => true
  | .vpokeAmpl _ _ => true
  | .vpokeAmpr _ _ => true
  | .vpeekPhase _ => true
  | .vpeekTune _ => true
  | .vpeekSel _ => true
  | .vpeekMask _ => true
  | .vpeekAmpl _ => true
  | .vpeekAmpr _ => true
  | .wtwrite _ _ => true
  | .wtread _ => true
  | .oread => true
  | .mread => true
  | .initEvent => true
  | .beginEvent => true
  | .reservedB => true
  | .reservedC => true
  | .reservedD => true
  | .reservedE => true
  | .reservedF => true

end Sys2Proof
end

