-- ==== Sys2Proof/Decode.lean ====
section
/-! DEFINITION. From event words to events and back (30_encoding R80 to R87, R91 to R93; opcode_table.json). -/

namespace Sys2Proof

/-- The register map of REGW (30_encoding R87). `d` is data[7:0] (R82). -/
def decodeRegw (reg d : Byte) : Instr :=
  match reg.toNat with
  | 0x10 => .regwSweep0 d
  | 0x11 => .regwLenduty0 d
  | 0x12 => .regwEnv0 d
  | 0x13 => .regwFlo0 d
  | 0x14 => .regwFhi0 d
  | 0x16 => .regwLenduty1 d
  | 0x17 => .regwEnv1 d
  | 0x18 => .regwFlo1 d
  | 0x19 => .regwFhi1 d
  | 0x1B => .regwLen2 d
  | 0x1C => .regwLvl2 d
  | 0x1D => .regwFlo2 d
  | 0x1E => .regwFhi2 d
  | _ => if reg.extractLsb' 4 4 = 0x3 then .regwPat (reg.extractLsb' 0 4) d else .regwIgnored reg d

/-- The field codes of VPOKE (30_encoding R83). -/
def decodeVpoke (voice : BitVec 4) (field : BitVec 3) (value : BitVec 16) : Instr :=
  match field.toNat with
  | 0 => .vpokePhase voice value
  | 1 => .vpokeTune voice value
  | 2 => .vpokeSel voice (value.extractLsb' 0 8)
  | 3 => .vpokeMask voice (value.extractLsb' 0 8)
  | 4 => .vpokeAmpl voice (value.extractLsb' 0 8)
  | 5 => .vpokeAmpr voice (value.extractLsb' 0 8)
  | _ => .vpokeBadfield voice field value

/-- The field codes of VPEEK (30_encoding R83). -/
def decodeVpeek (voice : BitVec 4) (field : BitVec 3) : Instr :=
  match field.toNat with
  | 0 => .vpeekPhase voice
  | 1 => .vpeekTune voice
  | 2 => .vpeekSel voice
  | 3 => .vpeekMask voice
  | 4 => .vpeekAmpl voice
  | 5 => .vpeekAmpr voice
  | _ => .vpeekBadfield voice field

/-- The event of a word: kind first, then the operand fields of that kind (30_encoding R81 to R85, R93). Total: every
word is some row, the reserved kinds and field codes included, which are refused by name when performed. -/
def decode (w : EventWord) : Instr :=
  match (w.extractLsb' 28 4).toNat with
  | 0x0 => decodeRegw (w.extractLsb' 16 8) (w.extractLsb' 0 8)
  | 0x1 => .tick
  | 0x2 => .fclk
  | 0x3 => decodeVpoke (w.extractLsb' 24 4) (w.extractLsb' 20 3) (w.extractLsb' 0 16)
  | 0x4 => decodeVpeek (w.extractLsb' 24 4) (w.extractLsb' 20 3)
  | 0x5 => .wtwrite (w.extractLsb' 16 8) (w.extractLsb' 0 8)
  | 0x6 => .wtread (w.extractLsb' 16 8)
  | 0x7 => .oread
  | 0x8 => .mread
  | 0x9 => .initEvent
  | 0xA => .beginEvent
  | 0xB => .reservedB
  | 0xC => .reservedC
  | 0xD => .reservedD
  | 0xE => .reservedE
  | _ => .reservedF

/-- Why bits are no event word. -/
inductive DecodeError where
  /-- There are not exactly 32 bits: every event word is exactly 32 bits (30_encoding R93). -/
  | notOneEventWord
deriving DecidableEq, Repr

/-- The event of `nbits` bits of value `w`, bit 0 the least significant; refused by name where they are not one event
word. No byte order applies to an event word (20_memory R63). -/
def decodeBits (nbits w : Nat) : Except DecodeError Instr :=
  if nbits = 32 ∧ w < 2 ^ 32 then .ok (decode (BitVec.ofNat 32 w)) else .error .notOneEventWord

/-- The event the decoder reads from a table row's bits: the bits above `nbits` are 0 up to the 32 of an event word. -/
def decodeTableWord (nbits w : Nat) : Option Instr :=
  match decodeBits (max nbits 32) (w % 2 ^ nbits) with
  | .ok i => some i
  | .error _ => none

/-- REGW's format (30_encoding R82, R94): `0x0 ‖ 0x0 ‖ reg ‖ 0x00 ‖ d`. -/
def regwWord (reg d : Byte) : EventWord := 0x0#4 ++ 0x0#4 ++ reg ++ 0x00#8 ++ d

/-- The format of VPOKE and VPEEK (30_encoding R83, R94): `kind ‖ voice ‖ 0 ‖ field ‖ 0x0 ‖ value`. -/
def voiceWord (kind voice : BitVec 4) (field : BitVec 3) (value : BitVec 16) : EventWord :=
  kind ++ voice ++ 0#1 ++ field ++ 0x0#4 ++ value

/-- The format of WTWRITE and WTREAD (30_encoding R84, R94): `kind ‖ 0x0 ‖ addr ‖ 0x00 ‖ wdata`. -/
def wavetableWord (kind : BitVec 4) (addr wdata : Byte) : EventWord :=
  kind ++ 0x0#4 ++ addr ++ 0x00#8 ++ wdata

/-- The format of the events with no operand (30_encoding R85, R94): `kind ‖ 0x0000000`. -/
def plainWord (kind : BitVec 4) : EventWord := kind ++ 0#28

/-- The word of an event, every ignored bit 0 (30_encoding R94). -/
def encode : Instr → EventWord
  | .regwSweep0 d => regwWord 0x10 d
  | .regwLenduty0 d => regwWord 0x11 d
  | .regwEnv0 d => regwWord 0x12 d
  | .regwFlo0 d => regwWord 0x13 d
  | .regwFhi0 d => regwWord 0x14 d
  | .regwLenduty1 d => regwWord 0x16 d
  | .regwEnv1 d => regwWord 0x17 d
  | .regwFlo1 d => regwWord 0x18 d
  | .regwFhi1 d => regwWord 0x19 d
  | .regwLen2 d => regwWord 0x1B d
  | .regwLvl2 d => regwWord 0x1C d
  | .regwFlo2 d => regwWord 0x1D d
  | .regwFhi2 d => regwWord 0x1E d
  | .regwPat k d => regwWord (0x3#4 ++ k) d
  | .regwIgnored reg d => regwWord reg d
  | .tick => plainWord 0x1
  | .fclk => plainWord 0x2
  | .vpokePhase voice value => voiceWord 0x3 voice 0 value
  | .vpokeTune voice value => voiceWord 0x3 voice 1 value
  | .vpokeSel voice value => voiceWord 0x3 voice 2 (0x00#8 ++ value)
  | .vpokeMask voice value => voiceWord 0x3 voice 3 (0x00#8 ++ value)
  | .vpokeAmpl voice value => voiceWord 0x3 voice 4 (0x00#8 ++ value)
  | .vpokeAmpr voice value => voiceWord 0x3 voice 5 (0x00#8 ++ value)
  | .vpokeBadfield voice field value => voiceWord 0x3 voice field value
  | .vpeekPhase voice => voiceWord 0x4 voice 0 0
  | .vpeekTune voice => voiceWord 0x4 voice 1 0
  | .vpeekSel voice => voiceWord 0x4 voice 2 0
  | .vpeekMask voice => voiceWord 0x4 voice 3 0
  | .vpeekAmpl voice => voiceWord 0x4 voice 4 0
  | .vpeekAmpr voice => voiceWord 0x4 voice 5 0
  | .vpeekBadfield voice field => voiceWord 0x4 voice field 0
  | .wtwrite addr wdata => wavetableWord 0x5 addr wdata
  | .wtread addr => wavetableWord 0x6 addr 0
  | .oread => plainWord 0x7
  | .mread => plainWord 0x8
  | .initEvent => plainWord 0x9
  | .beginEvent => plainWord 0xA
  | .reservedB => plainWord 0xB
  | .reservedC => plainWord 0xC
  | .reservedD => plainWord 0xD
  | .reservedE => plainWord 0xE
  | .reservedF => plainWord 0xF

/-- A row of the opcode table: a word is of the row when its bits under `mask` are `bits`. -/
structure TableRow where
  bits : EventWord
  mask : EventWord
deriving DecidableEq, Repr

/-- The row of opcode_table.json each constructor stands for (its "match" and "mask"). -/
def Instr.row : Instr → TableRow
  | .regwSweep0 _ => ⟨0x00100000, 0xF0FF0000⟩
  | .regwLenduty0 _ => ⟨0x00110000, 0xF0FF0000⟩
  | .regwEnv0 _ => ⟨0x00120000, 0xF0FF0000⟩
  | .regwFlo0 _ => ⟨0x00130000, 0xF0FF0000⟩
  | .regwFhi0 _ => ⟨0x00140000, 0xF0FF0000⟩
  | .regwLenduty1 _ => ⟨0x00160000, 0xF0FF0000⟩
  | .regwEnv1 _ => ⟨0x00170000, 0xF0FF0000⟩
  | .regwFlo1 _ => ⟨0x00180000, 0xF0FF0000⟩
  | .regwFhi1 _ => ⟨0x00190000, 0xF0FF0000⟩
  | .regwLen2 _ => ⟨0x001B0000, 0xF0FF0000⟩
  | .regwLvl2 _ => ⟨0x001C0000, 0xF0FF0000⟩
  | .regwFlo2 _ => ⟨0x001D0000, 0xF0FF0000⟩
  | .regwFhi2 _ => ⟨0x001E0000, 0xF0FF0000⟩
  | .regwPat _ _ => ⟨0x00300000, 0xF0F00000⟩
  | .regwIgnored _ _ => ⟨0x00000000, 0xF0000000⟩
  | .tick => ⟨0x10000000, 0xF0000000⟩
  | .fclk => ⟨0x20000000, 0xF0000000⟩
  | .vpokePhase _ _ => ⟨0x30000000, 0xF0700000⟩
  | .vpokeTune _ _ => ⟨0x30100000, 0xF0700000⟩
  | .vpokeSel _ _ => ⟨0x30200000, 0xF0700000⟩
  | .vpokeMask _ _ => ⟨0x30300000, 0xF0700000⟩
  | .vpokeAmpl _ _ => ⟨0x30400000, 0xF0700000⟩
  | .vpokeAmpr _ _ => ⟨0x30500000, 0xF0700000⟩
  | .vpokeBadfield _ _ _ => ⟨0x30600000, 0xF0600000⟩
  | .vpeekPhase _ => ⟨0x40000000, 0xF0700000⟩
  | .vpeekTune _ => ⟨0x40100000, 0xF0700000⟩
  | .vpeekSel _ => ⟨0x40200000, 0xF0700000⟩
  | .vpeekMask _ => ⟨0x40300000, 0xF0700000⟩
  | .vpeekAmpl _ => ⟨0x40400000, 0xF0700000⟩
  | .vpeekAmpr _ => ⟨0x40500000, 0xF0700000⟩
  | .vpeekBadfield _ _ => ⟨0x40600000, 0xF0600000⟩
  | .wtwrite _ _ => ⟨0x50000000, 0xF0000000⟩
  | .wtread _ => ⟨0x60000000, 0xF0000000⟩
  | .oread => ⟨0x70000000, 0xF0000000⟩
  | .mread => ⟨0x80000000, 0xF0000000⟩
  | .initEvent => ⟨0x90000000, 0xF0000000⟩
  | .beginEvent => ⟨0xA0000000, 0xF0000000⟩
  | .reservedB => ⟨0xB0000000, 0xF0000000⟩
  | .reservedC => ⟨0xC0000000, 0xF0000000⟩
  | .reservedD => ⟨0xD0000000, 0xF0000000⟩
  | .reservedE => ⟨0xE0000000, 0xF0000000⟩
  | .reservedF => ⟨0xF0000000, 0xF0000000⟩

/-- The agent that sends an event; none sends a reserved kind (30_encoding R81, 60_exceptions R260). -/
def Instr.agent : Instr → Option Agent
  | .tick => some .sampleTick
  | .fclk => some .frameClock
  | .reservedB => none
  | .reservedC => none
  | .reservedD => none
  | .reservedE => none
  | .reservedF => none
  | .regwSweep0 _ => some .host
  | .regwLenduty0 _ => some .host
  | .regwEnv0 _ => some .host
  | .regwFlo0 _ => some .host
  | .regwFhi0 _ => some .host
  | .regwLenduty1 _ => some .host
  | .regwEnv1 _ => some .host
  | .regwFlo1 _ => some .host
  | .regwFhi1 _ => some .host
  | .regwLen2 _ => some .host
  | .regwLvl2 _ => some .host
  | .regwFlo2 _ => some .host
  | .regwFhi2 _ => some .host
  | .regwPat _ _ => some .host
  | .regwIgnored _ _ => some .host
  | .vpokePhase _ _ => some .host
  | .vpokeTune _ _ => some .host
  | .vpokeSel _ _ => some .host
  | .vpokeMask _ _ => some .host
  | .vpokeAmpl _ _ => some .host
  | .vpokeAmpr _ _ => some .host
  | .vpokeBadfield _ _ _ => some .host
  | .vpeekPhase _ => some .host
  | .vpeekTune _ => some .host
  | .vpeekSel _ => some .host
  | .vpeekMask _ => some .host
  | .vpeekAmpl _ => some .host
  | .vpeekAmpr _ => some .host
  | .vpeekBadfield _ _ => some .host
  | .wtwrite _ _ => some .host
  | .wtread _ => some .host
  | .oread => some .host
  | .mread => some .host
  | .initEvent => some .host
  | .beginEvent => some .host

end Sys2Proof
end

