-- ==== Sys2Proof/Config.lean ====
section
/-! DEFINITION. The configuration, fixed at construction (00_scope R8, R9), and the one value the spec leaves open. -/

namespace Sys2Proof

/-- StereoMode (00_scope R8). -/
inductive StereoMode where
  | independent
  | fixedAssignment
  | disabled
deriving DecidableEq, Repr

/-- SampleRateDivider (00_scope R8). -/
inductive SampleRateDivider where
  | full
  | half
deriving DecidableEq, Repr

/-- RegisterInterpreter (00_scope R8). -/
inductive Presence where
  | absent
  | present
deriving DecidableEq, Repr

/-- A non-negative rational `num / den`. It need not be in lowest terms (log entry 1). -/
structure Ratio where
  num : Nat
  den : Nat
deriving DecidableEq, Repr

/-- The configuration of 00_scope R8, but for `tuneOverflow`, which is `Config.tuneOverflow` below.
It is no state: no event writes it (log entry 1). -/
structure Config where
  voiceCount : Nat
  stereoMode : StereoMode
  sampleRateDivider : SampleRateDivider
  wavetableSize : Nat
  registerInterpreter : Presence
  timerBaseRate : Ratio
  quarterSine : List Byte
deriving DecidableEq, Repr

/-- The open parameter `tuneOverflow` (00_scope R8, 41_frequency_conversion R145): what a tuning of 65536 or
more becomes. A free value: nothing in Lean can evaluate it (log entry 4). It may differ between configurations. -/
opaque Config.tuneOverflow : Config → Nat → BitVec 16

/-- Why a configuration is refused at construction (00_scope R9, 60_exceptions R251). The division into these reasons is a
DESIGN CHOICE (log entry 20). -/
inductive ConfigError where
  /-- VoiceCount is not 2, 4, 6, 8 or 10. -/
  | voiceCount
  /-- WavetableSize is not 128 or 256. -/
  | wavetableSize
  /-- timerBaseRate is not a positive rational. -/
  | timerBaseRate
  /-- quarterSine is not 16 bytes, each in 1..255. -/
  | quarterSine
  /-- RegisterInterpreter is present and WavetableSize is not 256 or VoiceCount is below 4. -/
  | interpreter
deriving DecidableEq, Repr

/-- The voice counts of 00_scope R8. -/
def legalVoiceCounts : List Nat := [2, 4, 6, 8, 10]

/-- The wavetable sizes of 00_scope R8. -/
def legalWavetableSizes : List Nat := [128, 256]

/-- The limits of 00_scope R9 on the interpreter: slots 4 to 7 and voices 0 to 2 must exist. -/
abbrev Config.interpreterFits (cfg : Config) : Prop :=
  cfg.registerInterpreter = .present → cfg.wavetableSize = 256 ∧ 4 ≤ cfg.voiceCount

/-- The configurations a block is constructed from (00_scope R8, R9). -/
abbrev Config.legal (cfg : Config) : Prop :=
  cfg.voiceCount ∈ legalVoiceCounts
    ∧ cfg.wavetableSize ∈ legalWavetableSizes
    ∧ (0 < cfg.timerBaseRate.num ∧ 0 < cfg.timerBaseRate.den)
    ∧ (cfg.quarterSine.length = 16 ∧ ∀ q ∈ cfg.quarterSine, q ≠ 0)
    ∧ cfg.interpreterFits

/-- The configuration `State.reset` is constructed from: that of the spec's own examples (95_test_vectors, its
opening assumptions, L1-7 and L1-8). DESIGN CHOICE, unsafe: log entry 1. No statement rests on it. -/
def Config.ofExamples : Config where
  voiceCount := 8
  stereoMode := .disabled
  sampleRateDivider := .full
  wavetableSize := 256
  registerInterpreter := .present
  timerBaseRate := ⟨31250, 1⟩
  quarterSine := [0x80, 0x88, 0x90, 0x98, 0xA0, 0xA8, 0xB0, 0xB8, 0xC0, 0xC8, 0xD0, 0xD8, 0xE0, 0xE8, 0xF0, 0xF8]

end Sys2Proof
end

