-- ==== Sys2Proof/Machine/State.lean ====
section
/-! DEFINITION. Everything the spec gives the machine (10_state), the event port's two sides, and the reset state
(10_state R40, 70_reset R270). -/

namespace Sys2Proof.Machine

/-- The ways an event faults: none. The block raises no exception and has no fault state (60_exceptions R250, R254;
93: "No source behaviour maps to `fault` or `stuck`"). Nothing raises a fault: safe, since every statement about
a fault is about no behaviour. -/
inductive Fault where
deriving DecidableEq, Repr

/-- The verdicts on an event that names no state or no operation of the block (60_exceptions R252, R253). A refused
event has no step. Each is safe: it only takes runs away. -/
inductive Refusal where
  /-- Kinds 0xB to 0xF: raised by RESERVED.B to RESERVED.F (30_encoding R86). Safe. -/
  | reservedKind
  /-- A voice index of VoiceCount or more: raised by every VPOKE and VPEEK (44 R226). Safe. -/
  | noSuchVoice
  /-- Field code 6 or 7: raised by VPOKE.BADFIELD and VPEEK.BADFIELD (44 R226). Safe. -/
  | noSuchField
  /-- An address of WavetableSize or more: raised by WTWRITE and WTREAD (44 R228, R229). Safe. -/
  | noSuchAddress
  /-- RegisterInterpreter is absent: raised by every REGW, FCLK and BEGIN (42 R150, 43 R190, 44 R233). Safe. -/
  | noInterpreter
  /-- An event without a meaning yet: raised by exec's refused arms alone, of which there are none. Safe. -/
  | notModelled (mnemonic : String)
deriving DecidableEq, Repr

/-- A voice's gains, by how StereoMode stores them (10_state R23): two registers, or one seen under both names. -/
inductive Gain where
  | separate (left right : Byte)
  | shared (amplitude : Byte)
deriving DecidableEq, Repr

/-- One phase-accumulator oscillator (10_state R22). -/
structure Voice where
  phase : BitVec 16
  tune : BitVec 16
  waveSelect : Byte
  waveMask : Byte
  gain : Gain
deriving DecidableEq, Repr

/-- The direction of an envelope: its bit is 1 for increase (10_state R32). -/
inductive Direction where
  | decrease
  | increase
deriving DecidableEq, Repr

/-- An envelope unit (10_state R32). -/
structure Envelope where
  startingVolume : Byte
  period : BitVec 3
  direction : Direction
  counter : BitVec 3
deriving DecidableEq, Repr

/-- A length counter (10_state R34). -/
structure LengthCounter where
  enabled : Bool
  loadValue : Byte
  counter : BitVec 9
deriving DecidableEq, Repr

/-- The frequency-sweep unit (10_state R35). -/
structure Sweep where
  period : BitVec 3
  negate : Bool
  shift : BitVec 3
  shadowFrequency : BitVec 11
  enabled : Bool
  counter : BitVec 3
deriving DecidableEq, Repr

/-- What the last performed event returned: the output side of the event port (log entry 6). -/
inductive Response where
  /-- The event returns nothing. -/
  | nothing
  /-- `Outputs()` under a paired stereo mode: TICK, OREAD (40 R122, 44 R230). -/
  | outputs (left right : Byte)
  /-- `Outputs()` under Disabled: `out_left` alone (40 R122, 44 R230). -/
  | outputLeft (left : Byte)
  /-- A voice field, zero-extended to 16 bits: VPEEK (44 R227). -/
  | field (value : BitVec 16)
  /-- A wavetable byte: WTREAD (44 R229). -/
  | sample (value : Byte)
  /-- The mixer sums: MREAD (44 R231). -/
  | sums (left right : BitVec 20)
deriving DecidableEq, Repr

/-- The machine. `cfg` is the configuration, which no event writes (log entry 1); `pending` are the events not yet
performed, in the total order they will be (20_memory R67; log entry 2). -/
structure State where
  cfg : Config
  /-- The voice register file: `VoiceCount` voices (R22). -/
  voices : List Voice
  /-- WavetableMemory (R25): the cells that differ from their reset content. -/
  wavetable : List Host.Cell
  /-- R26. -/
  leftSum : BitVec 20
  /-- R26; held at 0 under Disabled. -/
  rightSum : BitVec 20
  /-- The next voice to advance (R28). -/
  rr : Nat
  /-- The divider bit (R29). -/
  div : Bool
  /-- R30. -/
  outLeft : Byte
  /-- R30; holds 0 under Disabled. -/
  outRight : Byte
  /-- The 11-bit frequency shadow registers (R31). -/
  fnum0 : BitVec 11
  fnum1 : BitVec 11
  fnum2 : BitVec 11
  /-- R32. -/
  env0 : Envelope
  env1 : Envelope
  /-- R33. -/
  waveLevel : Byte
  /-- R34. -/
  len0 : LengthCounter
  len1 : LengthCounter
  len2 : LengthCounter
  /-- R35. -/
  sweep : Sweep
  /-- The frame sequencer's `step` (R36). -/
  frameStep : BitVec 3
  /-- The input side of the event port. -/
  pending : List EventWord
  /-- The output side of the event port. -/
  response : Response
deriving DecidableEq, Repr

/-- Both gains 0, stored as the stereo mode stores them (10_state R23, R40). -/
def Gain.zero : StereoMode → Gain
  | .independent => .separate 0 0
  | .fixedAssignment => .shared 0
  | .disabled => .shared 0

/-- A voice after reset (10_state R40). -/
def Voice.initial (mode : StereoMode) : Voice where
  phase := 0
  tune := 0
  waveSelect := 0x00
  waveMask := 0x00
  gain := Gain.zero mode

/-- An envelope after reset (10_state R40). -/
def Envelope.initial : Envelope := ⟨0, 0, .decrease, 0⟩

/-- A length counter after reset (10_state R40). -/
def LengthCounter.initial : LengthCounter := ⟨false, 0, 0⟩

/-- The sweep unit after reset (10_state R40). -/
def Sweep.initial : Sweep := ⟨0, false, 0, 0, false, 0⟩

/-- The state INIT produces from a configuration (10_state R40): no cell of the wavetable differs from its reset
content. No event is pending and nothing is returned. -/
def State.initial (cfg : Config) : State where
  cfg := cfg
  voices := List.replicate cfg.voiceCount (Voice.initial cfg.stereoMode)
  wavetable := []
  leftSum := 0
  rightSum := 0
  rr := 0
  div := false
  outLeft := 0x00
  outRight := 0x00
  fnum0 := 0
  fnum1 := 0
  fnum2 := 0
  env0 := Envelope.initial
  env1 := Envelope.initial
  waveLevel := 0
  len0 := LengthCounter.initial
  len1 := LengthCounter.initial
  len2 := LengthCounter.initial
  sweep := Sweep.initial
  frameStep := 0
  pending := []
  response := .nothing

/-- Power-on equals INIT (70_reset R270), under the configuration of the spec's examples (log entry 1). -/
def State.reset : State := State.initial Config.ofExamples

end Sys2Proof.Machine
end

