-- ==== Sys2Proof/Machine/Flags.lean ====
section
/-! DEFINITION. The block has no flags (10_state R37); these are the conditions its single-bit status fields and
counters make: which units act, the shared countdown, and the frame sequencer's dispatch policy. -/

namespace Sys2Proof.Machine

/-- The length counter is counting: enabled and not yet 0 (43 R195). -/
abbrev LengthCounter.counting (l : LengthCounter) : Prop := l.enabled = true ∧ l.counter ≠ 0

/-- The envelope is on: a period of 0 disables it (43 R196). -/
abbrev Envelope.on (e : Envelope) : Prop := e.period ≠ 0

/-- The sweep is armed: enabled, and a period of 0 stops it (43 R198). -/
abbrev Sweep.armed (w : Sweep) : Prop := w.enabled = true ∧ w.period ≠ 0

/-- What `CountDown` leaves in the counter, and whether the unit fires (43 R194). -/
def countDown (period counter : BitVec 3) : BitVec 3 × Bool :=
  let c := if counter = 0 then 0 else counter - 1
  if c = 0 then (period, true) else (c, false)

/-- One envelope step of a non-zero amplitude; an increase saturates at 255 (43 R196, R197). -/
def stepAmplitude (dir : Direction) (a : Byte) : Byte :=
  match dir with
  | .increase => if a = 255 then 255 else a + 1
  | .decrease => a - 1

/-- The sweep's 12-bit intermediate `new` (43 R198); the subtraction does not underflow, since delta ≤ shadow. -/
def sweptFrequency (w : Sweep) : Nat :=
  let delta := w.shadowFrequency.toNat >>> w.shift.toNat
  if w.negate then w.shadowFrequency.toNat - delta else w.shadowFrequency.toNat + delta

/-- The steps that run the length units: 0, 2, 4, 6 (43 R192). -/
abbrev lengthStep (step : BitVec 3) : Prop := step = 0 ∨ step = 2 ∨ step = 4 ∨ step = 6

/-- The steps that run the sweep unit: 2, 6 (43 R192). -/
abbrev sweepStep (step : BitVec 3) : Prop := step = 2 ∨ step = 6

/-- The step that runs the envelope units: 7 (43 R192). -/
abbrev envelopeStep (step : BitVec 3) : Prop := step = 7

end Sys2Proof.Machine
end

