-- ==== Sys2Proof/Machine/Frequency.lean ====
section
/-! DEFINITION. Frequency conversion (41_frequency_conversion): exact rationals and one truncation (R144). -/

namespace Sys2Proof.Machine

/-- A truncated tuning as 16 bits; 65536 and above is the open parameter's value (41 R141, R145). -/
def fitTune (cfg : Config) (t : Nat) : BitVec 16 :=
  if t < 65536 then BitVec.ofNat 16 t else Config.tuneOverflow cfg t

/-- `floor(frequency / ((timerBaseRate / VoiceCount) / 2^14))` (41 R142). -/
def tuningFloor (cfg : Config) (frequency : Ratio) : Nat :=
  (frequency.num * 2 ^ 14 * cfg.voiceCount * cfg.timerBaseRate.den) / (frequency.den * cfg.timerBaseRate.num)

/-- `tuning(frequency)`, the source's `getFnumber` (41 R142). -/
def tuning (cfg : Config) (frequency : Ratio) : BitVec 16 := fitTune cfg (tuningFloor cfg frequency)

/-- The frequency of an 11-bit field: `32768 / (2048 - n)` Hz (41 R141). -/
def fieldFrequency (n : BitVec 11) : Ratio := ⟨32768, 2048 - n.toNat⟩

/-- `tuneOf(n)` (41 R141): a function of the field and the configuration alone (R146). -/
def tuneOf (cfg : Config) (n : BitVec 11) : BitVec 16 := tuning cfg (fieldFrequency n)

/-- `getFrequency(pitch) = 440 × 1.059463^pitch` at whole semitones (41 R140); host-side, no part of the block's
datapath (00_scope R5). Laws/HostReference.lean has it at every real pitch. -/
def getFrequency : Int → Ratio
  | .ofNat p => ⟨440 * 1059463 ^ p, 1000000 ^ p⟩
  | .negSucc p => ⟨440 * 1000000 ^ (p + 1), 1059463 ^ (p + 1)⟩

/-- `pitchToFnumber(pitch) = tuning(getFrequency(pitch))` at whole semitones (41 R143); host-side. -/
def pitchToFnumber (cfg : Config) (pitch : Int) : BitVec 16 := tuning cfg (getFrequency pitch)

end Sys2Proof.Machine
end

