-- ==== Sys2Proof/Machine/Memory.lean ====
section
/-! DEFINITION. WavetableMemory (10_state R25, 20_memory R60, R61) as a list of (address, byte) cells in one canonical
form: addresses strictly rising, none equal to what an unlisted address reads as, which is its reset content. -/

namespace Sys2Proof.Machine

/-- The stored samples that differ from their reset content. -/
abbrev Memory := List Host.Cell

/-- The quarter sine and its mirror: the first 32 samples of the default sine (70_reset R274). -/
def sineFirstHalf (cfg : Config) (i : Nat) : Byte :=
  if i < 16 then cfg.quarterSine.getD i 0 else cfg.quarterSine.getD (31 - i) 0

/-- The reset content of an address: the default sine in W[0..63], 0x00 above (10_state R40, 70_reset R274). It is
what an address that the memory does not list reads as. -/
def resetByte (cfg : Config) (a : Nat) : Byte :=
  if a < 32 then sineFirstHalf cfg a
  else if a < 64 then BitVec.ofNat 8 (256 - (sineFirstHalf cfg (a - 32)).toNat)
  else 0x00

/-- The byte a memory lists for an address. -/
def listedByte : Memory → Nat → Option Byte
  | [], _ => none
  | (b, x) :: m, a => if a = b then some x else listedByte m a

/-- `MemRead(a, 1)` (00_scope R12). -/
def memRead (cfg : Config) (m : Memory) (a : Nat) : Byte :=
  (listedByte m a).getD (resetByte cfg a)

/-- Takes an address's cell out. -/
def dropCell : Memory → Nat → Memory
  | [], _ => []
  | (b, x) :: m, a => if a = b then dropCell m a else (b, x) :: dropCell m a

/-- Puts a cell in, in place of the address's own cell or in its place by rising address. -/
def putCell : Memory → Nat → Byte → Memory
  | [], a, x => [(a, x)]
  | (b, y) :: m, a, x =>
    if a < b then (a, x) :: (b, y) :: m
    else if a = b then (a, x) :: m
    else (b, y) :: putCell m a x

/-- `MemWrite(a, 1, x)` (00_scope R12); writing the reset content takes the cell out. -/
def memWrite (cfg : Config) (m : Memory) (a : Nat) (x : Byte) : Memory :=
  if x = resetByte cfg a then dropCell m a else putCell m a x

/-- `W[base + j] <- sample j` for j = 0 to n - 1, in that order. -/
def memFill (cfg : Config) (m : Memory) (base : Nat) (sample : Nat → Byte) : Nat → Memory
  | 0 => m
  | n + 1 => memWrite cfg (memFill cfg m base sample n) (base + n) (sample n)

/-- The canonical form, and every listed address exists (10_state R25). -/
abbrev Memory.wf (cfg : Config) (m : Memory) : Prop :=
  m.Pairwise (fun c e => c.1 < e.1)
    ∧ ∀ c ∈ m, c.1 < cfg.wavetableSize ∧ c.2 ≠ resetByte cfg c.1

end Sys2Proof.Machine
end

