-- ==== Sys2Proof/Machine/Operands.lean ====
section
/-! DEFINITION. The fields of the register data bytes (30_encoding R88 to R90) and the constants they select
(42 R164, R169; 44 R234). -/

namespace Sys2Proof.Machine

/-- SWEEP0 `d[6:4]`. -/
def sweepPeriodOf (d : Byte) : BitVec 3 := d.extractLsb' 4 3

/-- SWEEP0 `d[3]`. -/
def sweepNegateOf (d : Byte) : Bool := d.getLsbD 3

/-- SWEEP0 `d[2:0]`. -/
def sweepShiftOf (d : Byte) : BitVec 3 := d.extractLsb' 0 3

/-- LENDUTY `d[7:6]`. -/
def dutyOf (d : Byte) : BitVec 2 := d.extractLsb' 6 2

/-- LENDUTY `d[5:0]`, as the 8-bit load value (R90). -/
def shortLengthOf (d : Byte) : Byte := (d.extractLsb' 0 6).setWidth 8

/-- The counter a LENDUTY write loads: `64 − d[5:0]` (42 R154). -/
def shortCountOf (d : Byte) : BitVec 9 := BitVec.ofNat 9 (64 - (shortLengthOf d).toNat)

/-- The counter a LEN2 write loads: `256 − d` (42 R163). -/
def longCountOf (d : Byte) : BitVec 9 := BitVec.ofNat 9 (256 - d.toNat)

/-- ENV `d & 0xF0` (R90). -/
def volumeOf (d : Byte) : Byte := d &&& 0xF0

/-- ENV `d[3]`, 1 = increase. -/
def directionOf (d : Byte) : Direction := if d.getLsbD 3 then .increase else .decrease

/-- ENV `d[2:0]`. -/
def envPeriodOf (d : Byte) : BitVec 3 := d.extractLsb' 0 3

/-- FHI `d[7]`. -/
def triggerOf (d : Byte) : Bool := d.getLsbD 7

/-- FHI `d[6]`. -/
def lengthEnableOf (d : Byte) : Bool := d.getLsbD 6

/-- FHI `d[2:0]`. -/
def fnumHighOf (d : Byte) : BitVec 3 := d.extractLsb' 0 3

/-- `fnum[7:0] <- d`, the high bits kept (R89). -/
def latchLow (fnum : BitVec 11) (d : Byte) : BitVec 11 := fnum.extractLsb' 8 3 ++ d

/-- `fnum[10:8] <- high`, the low byte kept (R89). -/
def latchHigh (fnum : BitVec 11) (high : BitVec 3) : BitVec 11 := high ++ fnum.extractLsb' 0 8

/-- LVL2's table at `d[6:5]` (42 R164). -/
def waveLevelOf (d : Byte) : Byte :=
  match (d.extractLsb' 5 2).toNat with
  | 0 => 0x00
  | 1 => 0xF0
  | 2 => 0x78
  | _ => 0x3C

/-- PAT `d[7:4]`, unscaled (42 R167). -/
def patternHighOf (d : Byte) : Byte := (d.extractLsb' 4 4).setWidth 8

/-- PAT `d[3:0]`, unscaled (42 R167). -/
def patternLowOf (d : Byte) : Byte := (d.extractLsb' 0 4).setWidth 8

/-- The first address of pattern RAM, slot 2 (20_memory R61). -/
def patternBase : Nat := 0x40

/-- The even address PAT k writes (42 R167). -/
def patternAddress (k : BitVec 4) : Nat := patternBase + 2 * k.toNat

/-- `DutyBase(i) = 0x80 + 0x20 × i` (42 R169). -/
def dutyBase (i : BitVec 2) : Byte := BitVec.ofNat 8 (0x80 + 0x20 * i.toNat)

/-- The 8-bit duty patterns, 12.5 %, 25 %, 50 % and 75 % (44 R234). -/
def dutyPattern (i : BitVec 2) : Byte :=
  match i.toNat with
  | 0 => 0b00000001
  | 1 => 0b10000001
  | 2 => 0b10000111
  | _ => 0b01111110

/-- Sample j of duty slot i: one pattern bit covers 4 samples, most significant bit first (44 R234). -/
def dutySample (i : BitVec 2) (j : Nat) : Byte :=
  if (dutyPattern i).getLsbD (7 - j / 4) then 0xFF else 0x00

end Sys2Proof.Machine
end

