-- ==== Sys2Proof/Machine/Ops.lean ====
section
/-! DEFINITION. The named operations over voices, wavetable, channels and the event port. The block takes no exception
and has no trap entry or return (60_exceptions R250, R258), so there is no operation for either; the refusals of
60_exceptions R253 are the three guards at the end. -/

namespace Sys2Proof.Machine

/-- What an event comes to. -/
abbrev Result := Host.Outcome State Fault Refusal

/-! ## Voices (10_state R22, R23) -/

/-- `amplitude_left`. -/
def Gain.left : Gain → Byte
  | .separate l _ => l
  | .shared a => a

/-- `amplitude_right`. -/
def Gain.right : Gain → Byte
  | .separate _ r => r
  | .shared a => a

/-- `amplitude_left <- x`; a shared amplitude is written through either name. -/
def Gain.setLeft (g : Gain) (x : Byte) : Gain :=
  match g with
  | .separate _ r => .separate x r
  | .shared _ => .shared x

/-- `amplitude_right <- x`; a shared amplitude is written through either name. -/
def Gain.setRight (g : Gain) (x : Byte) : Gain :=
  match g with
  | .separate l _ => .separate l x
  | .shared _ => .shared x

/-- `voice[v]`. An index past the voice file is never read in a constructed block: VPOKE and VPEEK refuse it, `rr` and
the channels' voices are below VoiceCount (log entry 8). -/
def State.voice (s : State) (v : Nat) : Voice := s.voices.getD v (Voice.initial s.cfg.stereoMode)

/-- Changes `voice[v]` by `f`. -/
def State.modifyVoice (s : State) (v : Nat) (f : Voice → Voice) : State :=
  { s with voices := s.voices.modify v f }

/-- `voice[v].phase <- x`. -/
def State.setPhase (s : State) (v : Nat) (x : BitVec 16) : State :=
  s.modifyVoice v (fun o => { o with phase := x })

/-- `voice[v].tune <- x`. -/
def State.setTune (s : State) (v : Nat) (x : BitVec 16) : State :=
  s.modifyVoice v (fun o => { o with tune := x })

/-- `voice[v].wave_select <- x`. -/
def State.setWaveSelect (s : State) (v : Nat) (x : Byte) : State :=
  s.modifyVoice v (fun o => { o with waveSelect := x })

/-- `voice[v].wave_mask <- x`. -/
def State.setWaveMask (s : State) (v : Nat) (x : Byte) : State :=
  s.modifyVoice v (fun o => { o with waveMask := x })

/-- `voice[v].amplitude_left <- x`. -/
def State.setAmplitudeLeft (s : State) (v : Nat) (x : Byte) : State :=
  s.modifyVoice v (fun o => { o with gain := o.gain.setLeft x })

/-- `voice[v].amplitude_right <- x`. -/
def State.setAmplitudeRight (s : State) (v : Nat) (x : Byte) : State :=
  s.modifyVoice v (fun o => { o with gain := o.gain.setRight x })

/-! ## Wavetable -/

/-- `W[a]`. -/
def State.readByte (s : State) (a : Nat) : Byte := memRead s.cfg s.wavetable a

/-- `W[a] <- x`. -/
def State.writeByte (s : State) (a : Nat) (x : Byte) : State :=
  { s with wavetable := memWrite s.cfg s.wavetable a x }

/-- `W[base + j] <- sample j` for j below `n`. -/
def State.fillBytes (s : State) (base : Nat) (sample : Nat → Byte) (n : Nat) : State :=
  { s with wavetable := memFill s.cfg s.wavetable base sample n }

/-! ## Channels (42 R151, R152) -/

/-- The emulated channels c = 0, 1, 2. -/
inductive Channel where
  | ch0
  | ch1
  | ch2
deriving DecidableEq, Repr

/-- The channels with an envelope, c = 0, 1 (10_state R32). -/
inductive SquareChannel where
  | sq0
  | sq1
deriving DecidableEq, Repr

/-- `chanVoice(c) = c` (42 R151). -/
def Channel.voice : Channel → Nat
  | .ch0 => 0
  | .ch1 => 1
  | .ch2 => 2

/-- A square channel as a channel. -/
def SquareChannel.channel : SquareChannel → Channel
  | .sq0 => .ch0
  | .sq1 => .ch1

/-- `fnum[c]`. -/
def State.fnum (s : State) : Channel → BitVec 11
  | .ch0 => s.fnum0
  | .ch1 => s.fnum1
  | .ch2 => s.fnum2

/-- `fnum[c] <- x`. -/
def State.setFnum (s : State) (c : Channel) (x : BitVec 11) : State :=
  match c with
  | .ch0 => { s with fnum0 := x }
  | .ch1 => { s with fnum1 := x }
  | .ch2 => { s with fnum2 := x }

/-- `env[c]`. -/
def State.env (s : State) : SquareChannel → Envelope
  | .sq0 => s.env0
  | .sq1 => s.env1

/-- `env[c] <- e`. -/
def State.setEnv (s : State) (c : SquareChannel) (e : Envelope) : State :=
  match c with
  | .sq0 => { s with env0 := e }
  | .sq1 => { s with env1 := e }

/-- `len[c]`. -/
def State.len (s : State) : Channel → LengthCounter
  | .ch0 => s.len0
  | .ch1 => s.len1
  | .ch2 => s.len2

/-- `len[c] <- l`. -/
def State.setLen (s : State) (c : Channel) (l : LengthCounter) : State :=
  match c with
  | .ch0 => { s with len0 := l }
  | .ch1 => { s with len1 := l }
  | .ch2 => { s with len2 := l }

/-- `sweep <- w`. -/
def State.setSweep (s : State) (w : Sweep) : State := { s with sweep := w }

/-- `wave_level <- x`. -/
def State.setWaveLevel (s : State) (x : Byte) : State := { s with waveLevel := x }

/-- `ChanAmpRead(c)` (42 R152). -/
def State.chanAmpRead (s : State) (c : Channel) : Byte := (s.voice c.voice).gain.left

/-- `ChanAmpWrite(c, x)` (42 R152). -/
def State.chanAmpWrite (s : State) (c : Channel) (x : Byte) : State :=
  let left := s.setAmplitudeLeft c.voice x
  if s.cfg.stereoMode = .independent then left.setAmplitudeRight c.voice x else left

/-- The starting volume a trigger takes (42 R158). -/
def State.startingVolume (s : State) : Channel → Byte
  | .ch0 => s.env0.startingVolume
  | .ch1 => s.env1.startingVolume
  | .ch2 => s.waveLevel

/-- `env[c].counter <- env[c].period` (42 R158). -/
def State.reloadEnvelope (s : State) (c : SquareChannel) : State :=
  s.setEnv c { s.env c with counter := (s.env c).period }

/-- A channel-0 trigger's load of the sweep unit (42 R158). -/
def State.loadSweep (s : State) : State :=
  s.setSweep { s.sweep with shadowFrequency := s.fnum0, counter := s.sweep.period, enabled := true }

/-- The reloads that a trigger of each channel adds (42 R158). -/
def State.triggerReloads (s : State) : Channel → State
  | .ch0 => (s.reloadEnvelope .sq0).loadSweep
  | .ch1 => s.reloadEnvelope .sq1
  | .ch2 => s

/-- `Trigger(c)` (42 R158). -/
def State.trigger (s : State) (c : Channel) : State :=
  let s := s.chanAmpWrite c (s.startingVolume c)
  let s := s.setPhase c.voice 0
  let s := s.setTune c.voice (tuneOf s.cfg (s.fnum c))
  s.triggerReloads c

/-- `FHI(c, d)` (42 R157). -/
def State.writeFhi (s : State) (c : Channel) (d : Byte) : State :=
  let s := s.setFnum c (latchHigh (s.fnum c) (fnumHighOf d))
  let s := s.setLen c { s.len c with enabled := lengthEnableOf d }
  if triggerOf d then s.trigger c else s.chanAmpWrite c 0

/-- `fnum[c][7:0] <- d` (42 R156, R161, R165). -/
def State.writeFlo (s : State) (c : Channel) (d : Byte) : State := s.setFnum c (latchLow (s.fnum c) d)

/-- The envelope write of a square channel (42 R155, R160). -/
def State.writeEnv (s : State) (c : SquareChannel) (d : Byte) : State :=
  s.setEnv c
    { startingVolume := volumeOf d, direction := directionOf d, period := envPeriodOf d, counter := envPeriodOf d }

/-- The length and duty write of a square channel (42 R154, R159). -/
def State.writeLenduty (s : State) (c : SquareChannel) (d : Byte) : State :=
  let s := s.setWaveSelect c.channel.voice (dutyBase (dutyOf d))
  s.setLen c.channel { s.len c.channel with loadValue := shortLengthOf d, counter := shortCountOf d }

/-! ## The synthesis engine (40_synthesis) -/

/-- How many voices a processed TICK advances (40 R112). -/
def voicesPerTick : StereoMode → Nat
  | .disabled => 1
  | .independent => 2
  | .fixedAssignment => 2

/-- `TicksPerRound = VoiceCount / k` (40 R112). -/
def ticksPerRound (cfg : Config) : Nat := cfg.voiceCount / voicesPerTick cfg.stereoMode

/-- The 8-bit wavetable address of a phase: `(phase[15:8] & wave_mask) | wave_select` (40 R114). -/
def foldAddress (phase : BitVec 16) (mask select : Byte) : Byte := (phase.extractLsb' 8 8 &&& mask) ||| select

/-- The address bounded to the table: `address mod WavetableSize` (40 R115). -/
def boundAddress (cfg : Config) (address : Byte) : Nat := address.toNat % cfg.wavetableSize

/-- `s × gain`, exact: at most 65025 (40 R117, R124). -/
def product (sample gain : Byte) : BitVec 20 := sample.setWidth 20 * gain.setWidth 20

/-- `left_sum <- left_sum + x`. -/
def State.addLeft (s : State) (x : BitVec 20) : State := { s with leftSum := s.leftSum + x }

/-- `right_sum <- right_sum + x`. -/
def State.addRight (s : State) (x : BitVec 20) : State := { s with rightSum := s.rightSum + x }

/-- `Mix(v, s)` (40 R117, R118, R119). -/
def State.mix (s : State) (v : Nat) (sample : Byte) : State :=
  match s.cfg.stereoMode with
  | .disabled => s.addLeft (product sample (s.voice v).gain.left)
  | .independent =>
    let t := s.addLeft (product sample (s.voice v).gain.left)
    t.addRight (product sample (t.voice v).gain.right)
  | .fixedAssignment =>
    if v % 2 = 0 then s.addLeft (product sample (s.voice v).gain.left)
    else s.addRight (product sample (s.voice v).gain.left)

/-- `Advance(v)` (40 R113 to R116). -/
def State.advance (s : State) (v : Nat) : State :=
  let s := s.setPhase v ((s.voice v).phase + (s.voice v).tune)
  let o := s.voice v
  s.mix v (s.readByte (boundAddress s.cfg (foldAddress o.phase o.waveMask o.waveSelect)))

/-- `Advance(first)`, `Advance(first + 1)`, … for `k` voices, in increasing order (40 R112). -/
def State.advanceFrom (s : State) (first : Nat) : Nat → State
  | 0 => s
  | k + 1 => (s.advance first).advanceFrom (first + 1) k

/-- The end of a round: the outputs take the sums' bits 15:8, the sums and `rr` become 0 (40 R120, R121). -/
def State.completeRound (s : State) : State :=
  let right := if s.cfg.stereoMode = .disabled then s.outRight else s.rightSum.extractLsb' 8 8
  { s with outLeft := s.leftSum.extractLsb' 8 8, outRight := right, leftSum := 0, rightSum := 0, rr := 0 }

/-- A processed TICK: advance, step `rr`, complete the round when all voices have advanced (40 R110, R112, R120). -/
def State.processTick (s : State) : State :=
  let k := voicesPerTick s.cfg.stereoMode
  let t := s.advanceFrom s.rr k
  let t := { t with rr := s.rr + k }
  if t.rr = t.cfg.voiceCount then t.completeRound else t

/-- `Outputs()` (40 R122). -/
def State.outputs (s : State) : Response :=
  match s.cfg.stereoMode with
  | .disabled => .outputLeft s.outLeft
  | .independent => .outputs s.outLeft s.outRight
  | .fixedAssignment => .outputs s.outLeft s.outRight

/-! ## The units of the frame sequencer (43_frame_sequencer) -/

/-- `LengthUnit(c)` (43 R195). -/
def State.lengthUnit (s : State) (c : Channel) : State :=
  let l := s.len c
  if l.counting then
    let t := s.setLen c { l with counter := l.counter - 1 }
    if l.counter - 1 = 0 then t.chanAmpWrite c 0 else t
  else s

/-- `EnvelopeUnit(c)` (43 R196, R197). -/
def State.envelopeUnit (s : State) (c : SquareChannel) : State :=
  let e := s.env c
  if e.on then
    let t := s.setEnv c { e with counter := (countDown e.period e.counter).1 }
    let a := t.chanAmpRead c.channel
    if (countDown e.period e.counter).2 = true ∧ a ≠ 0 then t.chanAmpWrite c.channel (stepAmplitude e.direction a)
    else t
  else s

/-- The sweep's overflow: mute channel 0, disable the sweep, commit nothing (43 R199). -/
def State.sweepOverflow (s : State) : State :=
  let s := s.chanAmpWrite .ch0 0
  s.setSweep { s.sweep with enabled := false }

/-- The sweep's commit of a frequency (43 R200). -/
def State.sweepCommit (s : State) (f : BitVec 11) : State :=
  let s := s.setSweep { s.sweep with shadowFrequency := f }
  let s := s.setFnum .ch0 f
  s.setTune 0 (tuneOf s.cfg f)

/-- `SweepUnit()` (43 R198). -/
def State.sweepUnit (s : State) : State :=
  let w := s.sweep
  if w.armed then
    let t := s.setSweep { w with counter := (countDown w.period w.counter).1 }
    if (countDown w.period w.counter).2 = true then
      if 2047 < sweptFrequency w then t.sweepOverflow else t.sweepCommit (BitVec.ofNat 11 (sweptFrequency w))
    else t
  else s

/-- The length units, c = 0, 1, 2 (43 R193). -/
def State.lengthUnits (s : State) : State := ((s.lengthUnit .ch0).lengthUnit .ch1).lengthUnit .ch2

/-- The envelope units, c = 0, 1 (43 R193). -/
def State.envelopeUnits (s : State) : State := (s.envelopeUnit .sq0).envelopeUnit .sq1

/-- `step <- (step + 1) mod 8` (43 R191). -/
def State.advanceStep (s : State) : State := { s with frameStep := s.frameStep + 1 }

/-- The units a step selects, in the order of 43 R193 (43 R190, R192). -/
def State.runUnits (s : State) : State :=
  let t := if lengthStep s.frameStep then s.lengthUnits else s
  let t := if sweepStep s.frameStep then t.sweepUnit else t
  if envelopeStep s.frameStep then t.envelopeUnits else t

/-! ## BEGIN (44 R233, R234) -/

/-- `BuildDuty(i)` (44 R234). -/
def State.buildDuty (s : State) (i : BitVec 2) : State := s.fillBytes (dutyBase i).toNat (dutySample i) 32

/-- The duty slots, then pattern RAM cleared (44 R233). -/
def State.beginWavetable (s : State) : State :=
  ((((s.buildDuty 0).buildDuty 1).buildDuty 2).buildDuty 3).fillBytes patternBase (fun _ => 0x00) 32

/-- BEGIN's set-up of one channel's voice (44 R233). -/
def State.beginVoice (s : State) (c : Channel) : State :=
  let s := s.setPhase c.voice 0
  let s := s.setTune c.voice 0
  let s := s.setWaveMask c.voice 0x1F
  let s := s.setWaveSelect c.voice (if c = .ch2 then 0x40 else dutyBase 0)
  s.chanAmpWrite c 0

/-- BEGIN's reset of the register interface and of `step` (44 R233). -/
def State.beginRegisters (s : State) : State :=
  { s with
    fnum0 := 0, fnum1 := 0, fnum2 := 0, env0 := Envelope.initial, env1 := Envelope.initial, waveLevel := 0,
    len0 := LengthCounter.initial, len1 := LengthCounter.initial, len2 := LengthCounter.initial,
    sweep := Sweep.initial, frameStep := 0 }

/-! ## The event port -/

/-- Sets what the event returns. -/
def State.respond (s : State) (r : Response) : State := { s with response := r }

/-- The next event to perform and the state that has taken it off the port (20_memory R67). -/
def nextEvent (s : State) : Option (EventWord × State) :=
  match s.pending with
  | [] => none
  | w :: rest => some (w, { s with pending := rest })

/-- An event word put at the head of the port. -/
def presentEvent (s : State) (w : EventWord) : State := { s with pending := w :: s.pending }

/-- Performs an event of the register interface, or refuses it where there is none (60_exceptions R253). -/
def whenInterpreter (s : State) (perform : State → State) : Result :=
  if s.cfg.registerInterpreter = .present then .next (perform s) else .refused .noInterpreter

/-- Performs an event on a voice, or refuses one the block does not have (44 R226). -/
def whenVoice (s : State) (v : BitVec 4) (perform : State → State) : Result :=
  if v.toNat < s.cfg.voiceCount then .next (perform s) else .refused .noSuchVoice

/-- Performs an event on a wavetable address, or refuses one the block does not have (44 R228, R229). -/
def whenAddress (s : State) (a : Byte) (perform : State → State) : Result :=
  if a.toNat < s.cfg.wavetableSize then .next (perform s) else .refused .noSuchAddress

/-- A REGW: nothing is returned (42 R150). -/
def registerWrite (s : State) (write : State → State) : Result :=
  whenInterpreter s (fun s => (write s).respond .nothing)

/-- A VPOKE: nothing is returned (44 R220 to R225). -/
def pokeVoice (s : State) (v : BitVec 4) (write : State → State) : Result :=
  whenVoice s v (fun s => (write s).respond .nothing)

/-- A VPEEK: one field of the voice is returned and nothing else changes (44 R227). -/
def peekVoice (s : State) (v : BitVec 4) (field : Voice → BitVec 16) : Result :=
  whenVoice s v (fun s => s.respond (.field (field (s.voice v.toNat))))

end Sys2Proof.Machine
end

