-- ==== Sys2Proof/Machine/Clocks.lean ====
section
/-! DEFINITION. The two clocked events: TICK (40_synthesis) and FCLK (43_frame_sequencer). -/

namespace Sys2Proof.Machine

/-- TICK (40 R110, R111): under Half, only the strobes on which `div` becomes 1 are processed. -/
def execTick (s : State) : Result :=
  match s.cfg.sampleRateDivider with
  | .full => .next (s.processTick.respond s.processTick.outputs)
  | .half =>
    let t := { s with div := !s.div }
    if t.div then .next (t.processTick.respond t.processTick.outputs) else .next (t.respond t.outputs)

/-- FCLK (43 R190). -/
def execFclk (s : State) : Result :=
  whenInterpreter s (fun s => s.advanceStep.runUnits.respond .nothing)

end Sys2Proof.Machine
end

