-- ==== Sys2Proof/Machine/HostPorts.lean ====
section
/-! DEFINITION. The host ports: VPOKE, VPEEK, WTWRITE, WTREAD, OREAD, MREAD, INIT, BEGIN (44_host_ports), and the reserved
kinds (30_encoding R86). -/

namespace Sys2Proof.Machine

/-- VPOKE.PHASE (44 R220). -/
def execVpokePhase (v : BitVec 4) (x : BitVec 16) (s : State) : Result :=
  pokeVoice s v (fun s => s.setPhase v.toNat x)

/-- VPOKE.TUNE (44 R221). -/
def execVpokeTune (v : BitVec 4) (x : BitVec 16) (s : State) : Result :=
  pokeVoice s v (fun s => s.setTune v.toNat x)

/-- VPOKE.SEL (44 R222). -/
def execVpokeSel (v : BitVec 4) (x : Byte) (s : State) : Result :=
  pokeVoice s v (fun s => s.setWaveSelect v.toNat x)

/-- VPOKE.MASK (44 R223). -/
def execVpokeMask (v : BitVec 4) (x : Byte) (s : State) : Result :=
  pokeVoice s v (fun s => s.setWaveMask v.toNat x)

/-- VPOKE.AMPL (44 R224). -/
def execVpokeAmpl (v : BitVec 4) (x : Byte) (s : State) : Result :=
  pokeVoice s v (fun s => s.setAmplitudeLeft v.toNat x)

/-- VPOKE.AMPR (44 R225). -/
def execVpokeAmpr (v : BitVec 4) (x : Byte) (s : State) : Result :=
  pokeVoice s v (fun s => s.setAmplitudeRight v.toNat x)

/-- VPOKE with field 6 or 7 is refused (44 R226); a voice that does not exist is the reason reported first
(60_exceptions R257). -/
def execVpokeBadfield (v : BitVec 4) (_field : BitVec 3) (_x : BitVec 16) (s : State) : Result :=
  if v.toNat < s.cfg.voiceCount then .refused .noSuchField else .refused .noSuchVoice

/-- VPEEK.PHASE (44 R227). -/
def execVpeekPhase (v : BitVec 4) (s : State) : Result := peekVoice s v (fun o => o.phase)

/-- VPEEK.TUNE (44 R227). -/
def execVpeekTune (v : BitVec 4) (s : State) : Result := peekVoice s v (fun o => o.tune)

/-- VPEEK.SEL (44 R227). -/
def execVpeekSel (v : BitVec 4) (s : State) : Result := peekVoice s v (fun o => o.waveSelect.setWidth 16)

/-- VPEEK.MASK (44 R227). -/
def execVpeekMask (v : BitVec 4) (s : State) : Result := peekVoice s v (fun o => o.waveMask.setWidth 16)

/-- VPEEK.AMPL (44 R227). -/
def execVpeekAmpl (v : BitVec 4) (s : State) : Result := peekVoice s v (fun o => o.gain.left.setWidth 16)

/-- VPEEK.AMPR (44 R227). -/
def execVpeekAmpr (v : BitVec 4) (s : State) : Result := peekVoice s v (fun o => o.gain.right.setWidth 16)

/-- VPEEK with field 6 or 7 is refused (44 R226, 60_exceptions R257). -/
def execVpeekBadfield (v : BitVec 4) (_field : BitVec 3) (s : State) : Result :=
  if v.toNat < s.cfg.voiceCount then .refused .noSuchField else .refused .noSuchVoice

/-- WTWRITE (44 R228). -/
def execWtwrite (a x : Byte) (s : State) : Result :=
  whenAddress s a (fun s => (s.writeByte a.toNat x).respond .nothing)

/-- WTREAD (44 R229). -/
def execWtread (a : Byte) (s : State) : Result :=
  whenAddress s a (fun s => s.respond (.sample (s.readByte a.toNat)))

/-- OREAD (44 R230). -/
def execOread (s : State) : Result := .next (s.respond s.outputs)

/-- MREAD (44 R231). -/
def execMread (s : State) : Result := .next (s.respond (.sums s.leftSum s.rightSum))

/-- INIT (44 R232): every state element takes its reset value; the configuration and the events still to come stay. -/
def execInit (s : State) : Result := .next { State.initial s.cfg with pending := s.pending }

/-- BEGIN (44 R233). -/
def execBegin (s : State) : Result :=
  whenInterpreter s (fun s =>
    let s := s.beginWavetable
    let s := ((s.beginVoice .ch0).beginVoice .ch1).beginVoice .ch2
    s.beginRegisters.respond .nothing)

/-- RESERVED.B is refused (30_encoding R86). -/
def execReservedB (_s : State) : Result := .refused .reservedKind

/-- RESERVED.C is refused (30_encoding R86). -/
def execReservedC (_s : State) : Result := .refused .reservedKind

/-- RESERVED.D is refused (30_encoding R86). -/
def execReservedD (_s : State) : Result := .refused .reservedKind

/-- RESERVED.E is refused (30_encoding R86). -/
def execReservedE (_s : State) : Result := .refused .reservedKind

/-- RESERVED.F is refused (30_encoding R86). -/
def execReservedF (_s : State) : Result := .refused .reservedKind

end Sys2Proof.Machine
end

