-- ==== Sys2Proof/Machine/Regw.lean ====
section
/-! DEFINITION. REGW, the register interface (42_register_interface). -/

namespace Sys2Proof.Machine

/-- SWEEP0 (42 R153): counter, shadow and enable are kept. -/
def execRegwSweep0 (d : Byte) (s : State) : Result :=
  registerWrite s (fun s => s.setSweep
    { s.sweep with period := sweepPeriodOf d, negate := sweepNegateOf d, shift := sweepShiftOf d })

/-- LENDUTY0 (42 R154). -/
def execRegwLenduty0 (d : Byte) (s : State) : Result := registerWrite s (fun s => s.writeLenduty .sq0 d)

/-- ENV0 (42 R155). -/
def execRegwEnv0 (d : Byte) (s : State) : Result := registerWrite s (fun s => s.writeEnv .sq0 d)

/-- FLO0 (42 R156). -/
def execRegwFlo0 (d : Byte) (s : State) : Result := registerWrite s (fun s => s.writeFlo .ch0 d)

/-- FHI0 (42 R157). -/
def execRegwFhi0 (d : Byte) (s : State) : Result := registerWrite s (fun s => s.writeFhi .ch0 d)

/-- LENDUTY1 (42 R159). -/
def execRegwLenduty1 (d : Byte) (s : State) : Result := registerWrite s (fun s => s.writeLenduty .sq1 d)

/-- ENV1 (42 R160). -/
def execRegwEnv1 (d : Byte) (s : State) : Result := registerWrite s (fun s => s.writeEnv .sq1 d)

/-- FLO1 (42 R161). -/
def execRegwFlo1 (d : Byte) (s : State) : Result := registerWrite s (fun s => s.writeFlo .ch1 d)

/-- FHI1 (42 R162). -/
def execRegwFhi1 (d : Byte) (s : State) : Result := registerWrite s (fun s => s.writeFhi .ch1 d)

/-- LEN2 (42 R163). -/
def execRegwLen2 (d : Byte) (s : State) : Result :=
  registerWrite s (fun s => s.setLen .ch2 { s.len .ch2 with loadValue := d, counter := longCountOf d })

/-- LVL2 (42 R164). -/
def execRegwLvl2 (d : Byte) (s : State) : Result := registerWrite s (fun s => s.setWaveLevel (waveLevelOf d))

/-- FLO2 (42 R165). -/
def execRegwFlo2 (d : Byte) (s : State) : Result := registerWrite s (fun s => s.writeFlo .ch2 d)

/-- FHI2 (42 R166). -/
def execRegwFhi2 (d : Byte) (s : State) : Result := registerWrite s (fun s => s.writeFhi .ch2 d)

/-- PAT (42 R167): the high nibble to the even address, the low nibble to the next. -/
def execRegwPat (k : BitVec 4) (d : Byte) (s : State) : Result :=
  registerWrite s (fun s =>
    (s.writeByte (patternAddress k) (patternHighOf d)).writeByte (patternAddress k + 1) (patternLowOf d))

/-- IGNORED (42 R168): no state change. -/
def execRegwIgnored (_reg _d : Byte) (s : State) : Result := registerWrite s (fun s => s)

end Sys2Proof.Machine
end

