-- ==== Sys2Proof/Machine/Dispatch.lean ====
section
/-! DEFINITION. One arm per event. -/

namespace Sys2Proof.Machine

/-- The meaning of an event. -/
def exec (i : Instr) (s : State) : Host.Outcome State Fault Refusal :=
  match i with
  | .regwSweep0 d => Sys2Proof.Machine.execRegwSweep0 d s
  | .regwLenduty0 d => Sys2Proof.Machine.execRegwLenduty0 d s
  | .regwEnv0 d => Sys2Proof.Machine.execRegwEnv0 d s
  | .regwFlo0 d => Sys2Proof.Machine.execRegwFlo0 d s
  | .regwFhi0 d => Sys2Proof.Machine.execRegwFhi0 d s
  | .regwLenduty1 d => Sys2Proof.Machine.execRegwLenduty1 d s
  | .regwEnv1 d => Sys2Proof.Machine.execRegwEnv1 d s
  | .regwFlo1 d => Sys2Proof.Machine.execRegwFlo1 d s
  | .regwFhi1 d => Sys2Proof.Machine.execRegwFhi1 d s
  | .regwLen2 d => Sys2Proof.Machine.execRegwLen2 d s
  | .regwLvl2 d => Sys2Proof.Machine.execRegwLvl2 d s
  | .regwFlo2 d => Sys2Proof.Machine.execRegwFlo2 d s
  | .regwFhi2 d => Sys2Proof.Machine.execRegwFhi2 d s
  | .regwPat k d => Sys2Proof.Machine.execRegwPat k d s
  | .regwIgnored reg d => Sys2Proof.Machine.execRegwIgnored reg d s
  | .tick => Sys2Proof.Machine.execTick s
  | .fclk => Sys2Proof.Machine.execFclk s
  | .vpokePhase v x => Sys2Proof.Machine.execVpokePhase v x s
  | .vpokeTune v x => Sys2Proof.Machine.execVpokeTune v x s
  | .vpokeSel v x => Sys2Proof.Machine.execVpokeSel v x s
  | .vpokeMask v x => Sys2Proof.Machine.execVpokeMask v x s
  | .vpokeAmpl v x => Sys2Proof.Machine.execVpokeAmpl v x s
  | .vpokeAmpr v x => Sys2Proof.Machine.execVpokeAmpr v x s
  | .vpokeBadfield v f x => Sys2Proof.Machine.execVpokeBadfield v f x s
  | .vpeekPhase v => Sys2Proof.Machine.execVpeekPhase v s
  | .vpeekTune v => Sys2Proof.Machine.execVpeekTune v s
  | .vpeekSel v => Sys2Proof.Machine.execVpeekSel v s
  | .vpeekMask v => Sys2Proof.Machine.execVpeekMask v s
  | .vpeekAmpl v => Sys2Proof.Machine.execVpeekAmpl v s
  | .vpeekAmpr v => Sys2Proof.Machine.execVpeekAmpr v s
  | .vpeekBadfield v f => Sys2Proof.Machine.execVpeekBadfield v f s
  | .wtwrite a x => Sys2Proof.Machine.execWtwrite a x s
  | .wtread a => Sys2Proof.Machine.execWtread a s
  | .oread => Sys2Proof.Machine.execOread s
  | .mread => Sys2Proof.Machine.execMread s
  | .initEvent => Sys2Proof.Machine.execInit s
  | .beginEvent => Sys2Proof.Machine.execBegin s
  | .reservedB => Sys2Proof.Machine.execReservedB s
  | .reservedC => Sys2Proof.Machine.execReservedC s
  | .reservedD => Sys2Proof.Machine.execReservedD s
  | .reservedE => Sys2Proof.Machine.execReservedE s
  | .reservedF => Sys2Proof.Machine.execReservedF s

end Sys2Proof.Machine
end

