-- ==== Sys2Proof/Machine/Step.lean ====
section
/-! DEFINITION. One step performs the next pending event; with none the state is frozen (60_exceptions R264). -/

namespace Sys2Proof.Machine

/-- One step: the next event of the port, whole (20_memory R64, R67). -/
def step (s : State) : Host.Outcome State Fault Refusal :=
  match nextEvent s with
  | none => .next s
  | some (w, s') => exec (decode w) s'

/-- An event word presented at the port, so that the next step performs it (log entry 3): the bits above `nbits` are 0. -/
def State.withFetchWord (s : State) (nbits w : Nat) : State :=
  presentEvent s (BitVec.ofNat 32 (w % 2 ^ nbits))

end Sys2Proof.Machine
end

