-- ==== Sys2Proof/Machine/Assembler.lean ====
section
/-! DEFINITION. The textual syntax of event programs and its pseudo-instructions (30_encoding R94, R95). -/

namespace Sys2Proof.Machine

/-- The voice fields, by their names (30_encoding R83). -/
inductive FieldName where
  | phase
  | tune
  | sel
  | mask
  | ampl
  | ampr
deriving DecidableEq, Repr

/-- One line of an event program. Numbers are as written; a word takes the bits that R94 slices from them. -/
inductive Line where
  | regw (r d : Nat)
  | pat (k d : Nat)
  | tick
  | fclk
  | poke (v : Nat) (f : FieldName) (x : Nat)
  | peek (v : Nat) (f : FieldName)
  | wtw (a d : Nat)
  | wtr (a : Nat)
  | oread
  | mread
  | initLine
  | beginLine
  | note (c : Channel) (n : Nat)
  | noteoff (c : Channel)
  | ticks (n : Nat)
  | fclks (n : Nat)
  | round
  | pattern (bytes : List Nat)
  | wavefill (a : Nat) (bytes : List Nat)
deriving DecidableEq, Repr

/-- The code of a field (30_encoding R83). -/
def fieldCode : FieldName → BitVec 3
  | .phase => 0
  | .tune => 1
  | .sel => 2
  | .mask => 3
  | .ampl => 4
  | .ampr => 5

/-- `0x0 ‖ 0x0 ‖ R[7:0] ‖ D[15:0]` (30_encoding R94). -/
def lineRegw (r d : Nat) : EventWord := 0x0#4 ++ 0x0#4 ++ BitVec.ofNat 8 r ++ BitVec.ofNat 16 d

/-- The register of a channel's frequency-low write (30_encoding R87). -/
def floRegister : Channel → Nat
  | .ch0 => 0x13
  | .ch1 => 0x18
  | .ch2 => 0x1D

/-- The register of a channel's frequency-high write (30_encoding R87). -/
def fhiRegister : Channel → Nat
  | .ch0 => 0x14
  | .ch1 => 0x19
  | .ch2 => 0x1E

/-- The strobes of a round: TicksPerRound, doubled under Half (30_encoding R95). -/
def strobesPerRound (cfg : Config) : Nat :=
  match cfg.sampleRateDivider with
  | .full => ticksPerRound cfg
  | .half => 2 * ticksPerRound cfg

/-- `f 0 x0, f 1 x1, …` -/
def numbered (f : Nat → Nat → EventWord) : Nat → List Nat → List EventWord
  | _, [] => []
  | i, x :: xs => f i x :: numbered f (i + 1) xs

/-- The event words of a line (30_encoding R94, R95). `high c` is `fnum[c][10:8]`, which the assembler must know for
`noteoff`. -/
def assemble (cfg : Config) (high : Channel → BitVec 3) : Line → List EventWord
  | .regw r d => [lineRegw r d]
  | .pat k d => [lineRegw (0x30 + k) d]
  | .tick => [0x10000000]
  | .fclk => [0x20000000]
  | .poke v f x => [voiceWord 0x3 (BitVec.ofNat 4 v) (fieldCode f) (BitVec.ofNat 16 x)]
  | .peek v f => [voiceWord 0x4 (BitVec.ofNat 4 v) (fieldCode f) 0]
  | .wtw a d => [wavetableWord 0x5 (BitVec.ofNat 8 a) (BitVec.ofNat 8 d)]
  | .wtr a => [wavetableWord 0x6 (BitVec.ofNat 8 a) 0]
  | .oread => [0x70000000]
  | .mread => [0x80000000]
  | .initLine => [0x90000000]
  | .beginLine => [0xA0000000]
  | .note c n => [lineRegw (floRegister c) (n % 256), lineRegw (fhiRegister c) (0x80 + n / 256 % 8)]
  | .noteoff c => [lineRegw (fhiRegister c) (high c).toNat]
  | .ticks n => List.replicate n 0x10000000
  | .fclks n => List.replicate n 0x20000000
  | .round => List.replicate (strobesPerRound cfg) 0x10000000
  | .pattern bytes => numbered (fun k d => lineRegw (0x30 + k) d) 0 bytes
  | .wavefill a bytes => numbered (fun i x => wavetableWord 0x5 (BitVec.ofNat 8 (a + i)) (BitVec.ofNat 8 x)) 0 bytes

/-- Why a line of text is no line of the syntax. The reasons are a DESIGN CHOICE (log entry 17). -/
inductive AsmError where
  /-- The first word names no event and no pseudo-instruction. -/
  | unknownMnemonic
  /-- The operands are not those of the mnemonic's form. -/
  | badOperands
deriving DecidableEq, Repr

/-- A character's value as a digit of a base up to 16. -/
def digitValue (base : Nat) (c : Char) : Option Nat :=
  let v :=
    if '0'.toNat ≤ c.toNat ∧ c.toNat ≤ '9'.toNat then c.toNat - '0'.toNat
    else if 'a'.toNat ≤ c.toNat ∧ c.toNat ≤ 'f'.toNat then c.toNat - 'a'.toNat + 10
    else if 'A'.toNat ≤ c.toNat ∧ c.toNat ≤ 'F'.toNat then c.toNat - 'A'.toNat + 10
    else 16
  if v < base then some v else none

/-- The number that digits of a base write, after the digits already read. -/
def digitsValue (base : Nat) : Nat → List Char → Option Nat
  | n, [] => some n
  | n, c :: cs => (digitValue base c).bind (fun v => digitsValue base (n * base + v) cs)

/-- A decimal or `0x` hexadecimal number. -/
def parseNumber : List Char → Option Nat
  | [] => none
  | ['0', 'x'] => none
  | '0' :: 'x' :: cs => digitsValue 16 0 cs
  | cs => digitsValue 10 0 cs

/-- White space off both ends. -/
def trimmed (cs : List Char) : List Char :=
  let left := cs.dropWhile (fun c => c = ' ' ∨ c = '\t')
  (left.reverse.dropWhile (fun c => c = ' ' ∨ c = '\t')).reverse

/-- The operands, separated by commas. -/
def splitCommas : List Char → List (List Char)
  | [] => [[]]
  | c :: cs =>
    match splitCommas cs with
    | [] => [[c]]
    | p :: ps => if c = ',' then [] :: p :: ps else (c :: p) :: ps

/-- The operand list of the text after the mnemonic. -/
def operandsOf (cs : List Char) : List (List Char) :=
  match trimmed cs with
  | [] => []
  | c :: rest => (splitCommas (c :: rest)).map trimmed

/-- All operands as numbers. -/
def numbersOf : List (List Char) → Option (List Nat)
  | [] => some []
  | o :: os => (parseNumber o).bind (fun n => (numbersOf os).map (n :: ·))

/-- The register mnemonics but for `pat`, with their registers (30_encoding R87, R94). -/
def registerNames : List (List Char × Nat) :=
  [ (['s', 'w', 'e', 'e', 'p', '0'], 0x10), (['l', 'e', 'n', 'd', 'u', 't', 'y', '0'], 0x11),
    (['e', 'n', 'v', '0'], 0x12), (['f', 'l', 'o', '0'], 0x13), (['f', 'h', 'i', '0'], 0x14),
    (['l', 'e', 'n', 'd', 'u', 't', 'y', '1'], 0x16), (['e', 'n', 'v', '1'], 0x17),
    (['f', 'l', 'o', '1'], 0x18), (['f', 'h', 'i', '1'], 0x19), (['l', 'e', 'n', '2'], 0x1B),
    (['l', 'v', 'l', '2'], 0x1C), (['f', 'l', 'o', '2'], 0x1D), (['f', 'h', 'i', '2'], 0x1E) ]

/-- The field names (30_encoding R83). -/
def fieldNames : List (List Char × FieldName) :=
  [ (['p', 'h', 'a', 's', 'e'], .phase), (['t', 'u', 'n', 'e'], .tune), (['s', 'e', 'l'], .sel),
    (['m', 'a', 's', 'k'], .mask), (['a', 'm', 'p', 'l'], .ampl), (['a', 'm', 'p', 'r'], .ampr) ]

/-- A value by its name. -/
def named {α : Type} (table : List (List Char × α)) (name : List Char) : Option α :=
  match table with
  | [] => none
  | (n, x) :: rest => if n = name then some x else named rest name

/-- Channel C of a pseudo-instruction, C ∈ 0, 1, 2. -/
def channelOf : Nat → Option Channel
  | 0 => some .ch0
  | 1 => some .ch1
  | 2 => some .ch2
  | _ => none

/-- The forms whose operands are all numbers, by mnemonic and operands. -/
def numericLine (name : List Char) (xs : List Nat) : Except AsmError Line :=
  match name, xs with
  | ['r', 'e', 'g', 'w'], [r, d] => .ok (.regw r d)
  | ['p', 'a', 't'], [k, d] => if k < 16 then .ok (.pat k d) else .error .badOperands
  | ['t', 'i', 'c', 'k'], [] => .ok .tick
  | ['f', 'c', 'l', 'k'], [] => .ok .fclk
  | ['w', 't', 'w'], [a, d] => .ok (.wtw a d)
  | ['w', 't', 'r'], [a] => .ok (.wtr a)
  | ['o', 'r', 'e', 'a', 'd'], [] => .ok .oread
  | ['m', 'r', 'e', 'a', 'd'], [] => .ok .mread
  | ['i', 'n', 'i', 't'], [] => .ok .initLine
  | ['b', 'e', 'g', 'i', 'n'], [] => .ok .beginLine
  | ['n', 'o', 't', 'e'], [c, n] =>
    match channelOf c with
    | some c => if n < 2048 then .ok (.note c n) else .error .badOperands
    | none => .error .badOperands
  | ['n', 'o', 't', 'e', 'o', 'f', 'f'], [c] =>
    match channelOf c with
    | some c => .ok (.noteoff c)
    | none => .error .badOperands
  | ['t', 'i', 'c', 'k', 's'], [n] => .ok (.ticks n)
  | ['f', 'c', 'l', 'k', 's'], [n] => .ok (.fclks n)
  | ['r', 'o', 'u', 'n', 'd'], [] => .ok .round
  | ['p', 'a', 't', 't', 'e', 'r', 'n'], xs => if xs.length = 16 then .ok (.pattern xs) else .error .badOperands
  | ['w', 'a', 'v', 'e', 'f', 'i', 'l', 'l'], a :: x :: xs => .ok (.wavefill a (x :: xs))
  | name, xs =>
    match named registerNames name, xs with
    | some r, [d] => .ok (.regw r d)
    | some _, _ => .error .badOperands
    | none, _ => .error .unknownMnemonic

/-- A line's mnemonic and operands read as a line (30_encoding R94). -/
def lineOf (name : List Char) (operands : List (List Char)) : Except AsmError Line :=
  match name, operands with
  | ['p', 'o', 'k', 'e'], [v, f, x] =>
    match parseNumber v, named fieldNames f, parseNumber x with
    | some v, some f, some x => .ok (.poke v f x)
    | _, _, _ => .error .badOperands
  | ['p', 'e', 'e', 'k'], [v, f] =>
    match parseNumber v, named fieldNames f with
    | some v, some f => .ok (.peek v f)
    | _, _ => .error .badOperands
  | name, operands =>
    match numbersOf operands with
    | some xs => numericLine name xs
    | none => .error .badOperands

/-- A line of text: one event or pseudo-instruction, or none; `;` starts a comment (30_encoding R94). -/
def parseLine (text : List Char) : Except AsmError (Option Line) :=
  let cs := trimmed (text.takeWhile (fun c => c ≠ ';'))
  match cs with
  | [] => .ok none
  | c :: rest =>
    let isGap : Char → Bool := fun c => c = ' ' ∨ c = '\t'
    match lineOf ((c :: rest).takeWhile (fun c => !isGap c)) (operandsOf ((c :: rest).dropWhile (fun c => !isGap c))) with
    | .ok l => .ok (some l)
    | .error e => .error e

end Sys2Proof.Machine
end

