-- ==== Sys2Proof/Machine/Boot.lean ====
section
/-! DEFINITION. Construction (00_scope R9, 60_exceptions R251): a block in its power-on state, or a configuration error. -/

namespace Sys2Proof.Machine

/-- The first limit of 00_scope R8 and R9 that a configuration breaks. The reasons, and the order in which they are
tried, are a DESIGN CHOICE: R9 and 60_exceptions R251 ask only for a configuration error (log entry 20). -/
def configError (cfg : Config) : Option ConfigError :=
  if cfg.voiceCount ∉ legalVoiceCounts then some .voiceCount
  else if cfg.wavetableSize ∉ legalWavetableSizes then some .wavetableSize
  else if cfg.timerBaseRate.num = 0 ∨ cfg.timerBaseRate.den = 0 then some .timerBaseRate
  else if cfg.quarterSine.length ≠ 16 ∨ ∃ q ∈ cfg.quarterSine, q = 0 then some .quarterSine
  else if ¬ cfg.interpreterFits then some .interpreter
  else none

/-- Constructs the block: power-on is the state INIT produces (70_reset R270). -/
def construct (cfg : Config) : Except ConfigError State :=
  match configError cfg with
  | some e => .error e
  | none => .ok (State.initial cfg)

end Sys2Proof.Machine
end

