-- ==== Sys2Proof/Safety.lean ====
section
/-! DEFINITION. What holds of every state of a constructed block, which event words are refused, and runs. -/

namespace Sys2Proof.Machine

/-- A voice stores its gains as the stereo mode says (10_state R23). -/
def Gain.fits (g : Gain) (mode : StereoMode) : Prop :=
  match g with
  | .separate _ _ => mode = .independent
  | .shared _ => mode ≠ .independent

/-- What every state of a constructed block satisfies. -/
structure State.Inv (s : State) : Prop where
  /-- No block is constructed from an illegal configuration (60_exceptions R251). -/
  legal : s.cfg.legal
  /-- The voice file holds VoiceCount voices (10_state R22). -/
  voiceFile : s.voices.length = s.cfg.voiceCount
  /-- 10_state R23. -/
  gains : ∀ o ∈ s.voices, o.gain.fits s.cfg.stereoMode
  /-- The wavetable holds addresses below WavetableSize (10_state R25), in canonical form. -/
  wavetable : Memory.wf s.cfg s.wavetable
  /-- `rr` ranges over 0 to VoiceCount − 1 (10_state R28). -/
  rrBelow : s.rr < s.cfg.voiceCount
  /-- Under paired stereo modes `rr` takes only even values (10_state R28). -/
  rrEven : s.cfg.stereoMode ≠ .disabled → s.rr % 2 = 0
  /-- Under Full the divider bit stays at its reset value (10_state R29). -/
  divider : s.cfg.sampleRateDivider = .full → s.div = false
  /-- Each voice advanced in this round has added at most 255 × 255 (10_state R26, R27). -/
  leftBound : s.leftSum.toNat ≤ s.rr * 65025
  rightBound : s.rightSum.toNat ≤ s.rr * 65025
  /-- Under Disabled the right side is held at 0 (10_state R26, R30). -/
  rightAbsent : s.cfg.stereoMode = .disabled → s.rightSum = 0 ∧ s.outRight = 0
  /-- Only bits 7:4 of a starting volume are ever set (10_state R32, 30_encoding R90). -/
  volume0 : s.env0.startingVolume &&& 0x0F = 0
  volume1 : s.env1.startingVolume &&& 0x0F = 0
  /-- The envelope's countdown never exceeds its period (43 R194). -/
  countdown0 : s.env0.counter.toNat ≤ s.env0.period.toNat
  countdown1 : s.env1.counter.toNat ≤ s.env1.period.toNat
  /-- The four levels of LVL2 (42 R164). -/
  level : s.waveLevel ∈ [(0x00 : Byte), 0xF0, 0x78, 0x3C]
  /-- Six significant bits of load value, and a counter of at most 64, for c = 0, 1; at most 256 for c = 2 (10_state R34). -/
  load0 : s.len0.loadValue.toNat < 64
  load1 : s.len1.loadValue.toNat < 64
  count0 : s.len0.counter.toNat ≤ 64
  count1 : s.len1.counter.toNat ≤ 64
  count2 : s.len2.counter.toNat ≤ 256

/-- The refusal of an event word under a configuration, by the table of 60_exceptions R253 in its order (R257). -/
def refusalOf (cfg : Config) (w : EventWord) : Option Refusal :=
  let kind := (w.extractLsb' 28 4).toNat
  if 0xB ≤ kind then some .reservedKind
  else if (kind = 0x3 ∨ kind = 0x4) ∧ cfg.voiceCount ≤ (w.extractLsb' 24 4).toNat then some .noSuchVoice
  else if (kind = 0x3 ∨ kind = 0x4) ∧ 6 ≤ (w.extractLsb' 20 3).toNat then some .noSuchField
  else if (kind = 0x5 ∨ kind = 0x6) ∧ cfg.wavetableSize ≤ (w.extractLsb' 16 8).toNat then some .noSuchAddress
  else if (kind = 0x0 ∨ kind = 0x2 ∨ kind = 0xA) ∧ cfg.registerInterpreter = .absent then some .noInterpreter
  else none

/-- Performs events one after another (20_memory R67), stopping at the first refusal. -/
def perform : List Instr → State → Host.Outcome State Fault Refusal
  | [], s => .next s
  | i :: is, s =>
    match exec i s with
    | .next t => perform is t
    | .fault r => .fault r
    | .refused r => .refused r

/-- The orders in which three agents' events may be performed: any interleaving that keeps the order of each agent's own
events (20_memory R67, 60_exceptions R256). -/
inductive Interleaving : List EventWord → List EventWord → List EventWord → List EventWord → Prop where
  | done : Interleaving [] [] [] []
  | host (w : EventWord) {hs ts fs ws : List EventWord} :
      Interleaving hs ts fs ws → Interleaving (w :: hs) ts fs (w :: ws)
  | sampleTick (w : EventWord) {hs ts fs ws : List EventWord} :
      Interleaving hs ts fs ws → Interleaving hs (w :: ts) fs (w :: ws)
  | frameClock (w : EventWord) {hs ts fs ws : List EventWord} :
      Interleaving hs ts fs ws → Interleaving hs ts (w :: fs) (w :: ws)

end Sys2Proof.Machine
end

