-- ==== Sys2Proof/Certificates/Slice0/Obligations.lean ====
section
/-! DEFINITION. The statements for the provers. `Spec` holds the words they are said in: the rules' own arithmetic on
naturals and the rules' own tables, written apart from the model's operations. Two fields are the model's own and no
rule's: `response`, the record of what an event returned (log entry 6: `.nothing` where the rules name no return value), and
`pending`, the events still to come (log entries 2 and 16: no event touches them). -/

open Sys2Proof Sys2Proof.Machine

namespace Sys2Proof.Spec

/-! ## The words of the statements -/

/-- RegisterInterpreter is present. -/
abbrev present (s : State) : Prop := s.cfg.registerInterpreter = .present

/-- How many voices a processed TICK advances (40 R112). -/
def pair (s : State) : Nat := if s.cfg.stereoMode = .disabled then 1 else 2

/-- A voice's phase after its next advance, modulo 2^16 (40 R113). -/
def nextPhase (o : Voice) : Nat := (o.phase.toNat + o.tune.toNat) % 65536

/-- The wavetable address of a voice's next advance: mask, OR, bound (40 R114, R115). -/
def nextAddress (cfg : Config) (o : Voice) : Nat :=
  ((nextPhase o / 256 &&& o.waveMask.toNat) ||| o.waveSelect.toNat) % cfg.wavetableSize

/-- The sample voice v reads at its next advance (40 R116). -/
def nextSample (s : State) (v : Nat) : Nat := (s.readByte (nextAddress s.cfg (s.voice v))).toNat

/-- What voice v's next advance adds to `left_sum` (40 R117, R118, R119). -/
def leftShare (s : State) (v : Nat) : Nat :=
  match s.cfg.stereoMode with
  | .disabled => nextSample s v * (s.voice v).gain.left.toNat
  | .independent => nextSample s v * (s.voice v).gain.left.toNat
  | .fixedAssignment => if v % 2 = 0 then nextSample s v * (s.voice v).gain.left.toNat else 0

/-- What voice v's next advance adds to `right_sum` (40 R117, R118, R119). -/
def rightShare (s : State) (v : Nat) : Nat :=
  match s.cfg.stereoMode with
  | .disabled => 0
  | .independent => nextSample s v * (s.voice v).gain.right.toNat
  | .fixedAssignment => if v % 2 = 0 then 0 else nextSample s v * (s.voice v).gain.left.toNat

/-- The sum of `share` over the voices first, …, first + k - 1. -/
def total (share : Nat → Nat) (first k : Nat) : Nat := ∑ j ∈ Finset.range k, share (first + j)

/-- The voice file after the voices first, …, first + k - 1 have advanced: their phases alone have changed. -/
def advanced (s : State) (first k : Nat) : List Voice :=
  s.voices.mapIdx (fun v o => if first ≤ v ∧ v < first + k then { o with phase := BitVec.ofNat 16 (nextPhase o) } else o)

/-- `Outputs()` of two output registers (40 R122). -/
def outputs (mode : StereoMode) (left right : Byte) : Response :=
  if mode = .disabled then .outputLeft left else .outputs left right

/-- Bits 15:8 of a sum (40 R120, R121). -/
def outputByte (sum : Nat) : Byte := BitVec.ofNat 8 (sum / 256)

/-- Both gains at x, as the stereo mode stores them (10_state R23, 42 R152). -/
def bothGains (mode : StereoMode) (x : Byte) : Gain := if mode = .independent then .separate x x else .shared x

/-- `fnum` with its low byte d (30 R89). -/
def withLow (f : BitVec 11) (d : Byte) : BitVec 11 := BitVec.ofNat 11 (f.toNat / 256 * 256 + d.toNat)

/-- `fnum` with its bits 10:8 those of d[2:0] (30 R89). -/
def withHigh (f : BitVec 11) (d : Byte) : BitVec 11 := BitVec.ofNat 11 (d.toNat % 8 * 256 + f.toNat % 256)

/-- The exact rational tuning of an 11-bit field (41 R141, R142). -/
def exactTuning (cfg : Config) (n : BitVec 11) : ℚ :=
  32768 / (2048 - n.toNat) * 2 ^ 14 * cfg.voiceCount / (cfg.timerBaseRate.num / cfg.timerBaseRate.den)

/-- The counter after n countdowns of period p that began at a reload (43 R194). -/
def countedDown (p : BitVec 3) : Nat → BitVec 3
  | 0 => p
  | n + 1 => (countDown p (countedDown p n)).1

/-- The duty patterns of 44 R234, as numbers. -/
def dutyBits : List Nat := [0x01, 0x81, 0x87, 0x7E]

/-- Sample j of duty slot i (44 R234). -/
def dutyByte (i j : Nat) : Byte := if (dutyBits.getD i 0).testBit (7 - j / 4) then 0xFF else 0x00

/-- The wavetable after BEGIN, from the wavetable before it (44 R233, R234). -/
def begunByte (s : State) (a : Nat) : Byte :=
  if 0x40 ≤ a ∧ a < 0x60 then 0x00
  else if 0x80 ≤ a ∧ a < 0x100 then dutyByte ((a - 0x80) / 32) ((a - 0x80) % 32)
  else s.readByte a

/-- Voice v after BEGIN (44 R233). -/
def begunVoice (mode : StereoMode) (v : Nat) (o : Voice) : Voice :=
  if v < 3 then
    { phase := 0, tune := 0, waveMask := 0x1F, waveSelect := if v = 2 then 0x40 else 0x80, gain := bothGains mode 0 }
  else o

/-- The voice that a channel's index names (42 R151). -/
def mapVoice (s : State) (v : Nat) (f : Voice → Voice) : List Voice :=
  s.voices.mapIdx (fun u o => if u = v then f o else o)

/-- The REGW events. -/
def isRegw (i : Instr) : Prop := (encode i).extractLsb' 28 4 = 0

/-- Byte a of the wavetable after INIT (10_state R40, 70_reset R274). -/
def initByte (cfg : Config) (a : Nat) : Byte :=
  let q : Nat → Byte := fun i => if i < 16 then cfg.quarterSine.getD i 0 else cfg.quarterSine.getD (31 - i) 0
  if a < 32 then q a else if a < 64 then BitVec.ofNat 8 ((256 - (q (a - 32)).toNat) % 256) else 0x00

/-- A strobe that is processed: every one under Full, those on which `div` becomes 1 under Half (40 R111). -/
def processed (s : State) : Prop := s.cfg.sampleRateDivider = .full ∨ s.div = false

/-- The divider bit after a processed strobe (40 R111). -/
def dividerAfter (s : State) : Bool := if s.cfg.sampleRateDivider = .half then true else s.div

/-- The strobes of a round: TicksPerRound, doubled under Half (30 R95, 40 R112). -/
def strobes (cfg : Config) : Nat :=
  cfg.voiceCount / (if cfg.stereoMode = .disabled then 1 else 2) * (if cfg.sampleRateDivider = .half then 2 else 1)

/-- The events that write voice phases (10_state R24, 44 R232, R233): TICK, VPOKE.PHASE, the FHI writes, INIT, BEGIN. -/
def writesPhase : Instr → Prop
  | .tick | .vpokePhase _ _ | .regwFhi0 _ | .regwFhi1 _ | .regwFhi2 _ | .initEvent | .beginEvent => True
  | _ => False

/-- The events that write voice tunes: VPOKE.TUNE, the FHI writes, FCLK's sweep commit, INIT, BEGIN. -/
def writesTune : Instr → Prop
  | .vpokeTune _ _ | .regwFhi0 _ | .regwFhi1 _ | .regwFhi2 _ | .fclk | .initEvent | .beginEvent => True
  | _ => False

/-- The events that write `wave_select`: VPOKE.SEL, LENDUTY0, LENDUTY1, INIT, BEGIN. -/
def writesSelect : Instr → Prop
  | .vpokeSel _ _ | .regwLenduty0 _ | .regwLenduty1 _ | .initEvent | .beginEvent => True
  | _ => False

/-- The events that write `wave_mask`: VPOKE.MASK, INIT, BEGIN. -/
def writesMask : Instr → Prop
  | .vpokeMask _ _ | .initEvent | .beginEvent => True
  | _ => False

/-- The events that write gains: VPOKE.AMPL, VPOKE.AMPR, the FHI writes, FCLK, INIT, BEGIN. -/
def writesGain : Instr → Prop
  | .vpokeAmpl _ _ | .vpokeAmpr _ _ | .regwFhi0 _ | .regwFhi1 _ | .regwFhi2 _ | .fclk | .initEvent | .beginEvent => True
  | _ => False

end Sys2Proof.Spec

open Sys2Proof.Spec

/-! ## Encoding -/

/-- Decoding an encoded well-formed event gives it back (30 R82 to R85, R87, R94). -/
def Obligations.DecodeOfEncodeGivesTheEventBack : Prop :=
  ∀ i : Instr, i.wellFormed = true → decode (encode i) = i

/-- Every word decodes to a well-formed event whose row of the opcode table it matches (30 R81, R87; opcode_table.json). -/
def Obligations.DecodedWordsMatchTheirTableRow : Prop :=
  ∀ w : EventWord, (decode w).wellFormed = true ∧ w &&& (decode w).row.mask = (decode w).row.bits

/-- REGW's register map at every value of the ignored bits 27:24 and 15:8 (30 R87; the IGNORED addresses as R91 lists
them). -/
def Obligations.RegisterMapOfRegw : Prop :=
  ∀ (x : BitVec 4) (h d : Byte),
    let regw : Byte → EventWord := fun reg => 0x0#4 ++ x ++ reg ++ h ++ d
    decode (regw 0x10) = .regwSweep0 d ∧ decode (regw 0x11) = .regwLenduty0 d ∧ decode (regw 0x12) = .regwEnv0 d
      ∧ decode (regw 0x13) = .regwFlo0 d ∧ decode (regw 0x14) = .regwFhi0 d ∧ decode (regw 0x16) = .regwLenduty1 d
      ∧ decode (regw 0x17) = .regwEnv1 d ∧ decode (regw 0x18) = .regwFlo1 d ∧ decode (regw 0x19) = .regwFhi1 d
      ∧ decode (regw 0x1B) = .regwLen2 d ∧ decode (regw 0x1C) = .regwLvl2 d ∧ decode (regw 0x1D) = .regwFlo2 d
      ∧ decode (regw 0x1E) = .regwFhi2 d
      ∧ (∀ k : BitVec 4, decode (regw (0x3#4 ++ k)) = .regwPat k d)
      ∧ ∀ reg : Byte, reg.toNat ≤ 0x0F ∨ reg = 0x15 ∨ reg = 0x1A ∨ reg = 0x1F
          ∨ (0x20 ≤ reg.toNat ∧ reg.toNat ≤ 0x2F) ∨ 0x40 ≤ reg.toNat → decode (regw reg) = .regwIgnored reg d

/-- The format of VPOKE and VPEEK at every value of the ignored bits, the field codes, and value[7:0] alone for the
8-bit fields; the reserved codes and the voices that do not exist are refused (30 R83). -/
def Obligations.FormatOfVoiceEvents : Prop :=
  ∀ (v : BitVec 4) (b : BitVec 1) (x : BitVec 4) (h l : Byte),
    let word : BitVec 4 → BitVec 3 → EventWord := fun kind field => kind ++ v ++ b ++ field ++ x ++ h ++ l
    decode (word 0x3 0) = .vpokePhase v (h ++ l) ∧ decode (word 0x3 1) = .vpokeTune v (h ++ l)
      ∧ decode (word 0x3 2) = .vpokeSel v l ∧ decode (word 0x3 3) = .vpokeMask v l
      ∧ decode (word 0x3 4) = .vpokeAmpl v l ∧ decode (word 0x3 5) = .vpokeAmpr v l
      ∧ decode (word 0x4 0) = .vpeekPhase v ∧ decode (word 0x4 1) = .vpeekTune v ∧ decode (word 0x4 2) = .vpeekSel v
      ∧ decode (word 0x4 3) = .vpeekMask v ∧ decode (word 0x4 4) = .vpeekAmpl v ∧ decode (word 0x4 5) = .vpeekAmpr v
      ∧ ∀ (s : State) (kind : BitVec 4) (field : BitVec 3), kind = 0x3 ∨ kind = 0x4 →
          s.cfg.voiceCount ≤ v.toNat ∨ field = 6 ∨ field = 7 → ∃ r, exec (decode (word kind field)) s = .refused r

/-- The format of WTWRITE and WTREAD at every value of the ignored bits (30 R84). -/
def Obligations.FormatOfWavetableEvents : Prop :=
  ∀ (x : BitVec 4) (addr h wdata : Byte),
    decode (0x5#4 ++ x ++ addr ++ h ++ wdata) = .wtwrite addr wdata
      ∧ decode (0x6#4 ++ x ++ addr ++ h ++ wdata) = .wtread addr

/-- The events with no operand, at every value of bits 27:0 (30 R85). -/
def Obligations.FormatOfPlainEvents : Prop :=
  ∀ x : BitVec 28,
    decode (0x1#4 ++ x) = .tick ∧ decode (0x2#4 ++ x) = .fclk ∧ decode (0x7#4 ++ x) = .oread
      ∧ decode (0x8#4 ++ x) = .mread ∧ decode (0x9#4 ++ x) = .initEvent ∧ decode (0xA#4 ++ x) = .beginEvent

/-- Kinds 0xB to 0xF are refused, whatever their other bits: RESERVED.B to RESERVED.F stop in every state (30 R86). -/
def Obligations.ReservedKindsAreRefused : Prop :=
  ∀ (x : BitVec 28) (s : State),
    (decode (0xB#4 ++ x) = .reservedB ∧ exec .reservedB s = .refused .reservedKind)
      ∧ (decode (0xC#4 ++ x) = .reservedC ∧ exec .reservedC s = .refused .reservedKind)
      ∧ (decode (0xD#4 ++ x) = .reservedD ∧ exec .reservedD s = .refused .reservedKind)
      ∧ (decode (0xE#4 ++ x) = .reservedE ∧ exec .reservedE s = .refused .reservedKind)
      ∧ (decode (0xF#4 ++ x) = .reservedF ∧ exec .reservedF s = .refused .reservedKind)

/-- The worked examples of the encoding (30 R96): the assembler's words, and what they decode to. -/
def Obligations.WorkedExampleWords : Prop :=
  ∀ (cfg : Config) (high : Channel → BitVec 3),
    (assemble cfg high (.regw 0x14 0x87) = [0x00140087] ∧ decode 0x00140087 = .regwFhi0 0x87)
      ∧ (assemble cfg high (.poke 3 .tune 0x1234) = [0x33101234] ∧ decode 0x33101234 = .vpokeTune 3 0x1234)
      ∧ (assemble cfg high (.peek 0 .ampl) = [0x40400000] ∧ decode 0x40400000 = .vpeekAmpl 0)
      ∧ (assemble cfg high (.wtw 0x40 0xAB) = [0x504000AB] ∧ decode 0x504000AB = .wtwrite 0x40 0xAB)
      ∧ (assemble cfg high (.pat 5 0x9C) = [0x0035009C] ∧ decode 0x0035009C = .regwPat 5 0x9C)

/-! ## The machine as a whole -/

/-- A step performs the next event of the port on the state that has taken it off; with no event the state is frozen. The
port as a list, and the empty step, are the model's choice (log entries 2, 3). -/
def Obligations.StepPerformsTheNextEvent : Prop :=
  ∀ s : State,
    (∀ (w : EventWord) (rest : List EventWord),
        s.pending = w :: rest → step s = exec (decode w) { s with pending := rest })
      ∧ (s.pending = [] → step s = .next s)

/-- The refusals are those of 60 R253's table, the first in its order (R257), and every other event word completes. -/
def Obligations.RefusalsAreThoseOfTheTable : Prop :=
  ∀ (s : State) (w : EventWord),
    match refusalOf s.cfg w with
    | some r => exec (decode w) s = .refused r
    | none => ∃ t, exec (decode w) s = .next t

/-- An event sees none of the events after it and nothing of what earlier events returned: its effect is the same
whatever they are, and it leaves the events still to come as they are (20 R67). -/
def Obligations.EventsSeeNothingOfThePort : Prop :=
  ∀ (i : Instr) (s t : State) (ws : List EventWord) (r : Response),
    exec i s = .next t →
      t.pending = s.pending ∧ exec i { s with pending := ws, response := r } = .next { t with pending := ws }

/-- Every step keeps the invariant of a constructed block; the canonical wavetable form in it is the model's choice (log
entry 9). -/
def Obligations.StepKeepsTheInvariant : Prop :=
  ∀ s t : State, s.Inv → step s = .next t → t.Inv

/-- The reset state satisfies the invariant. The configuration it is under is the model's choice (log entry 1), as is the
canonical wavetable form (log entry 9). -/
def Obligations.ResetSatisfiesTheInvariant : Prop := State.reset.Inv

/-- Construction answers a block in its power-on state, which satisfies the invariant, for exactly the configurations
of 00_scope R8 and R9, and an error for every other. The canonical wavetable form in the invariant is the model's choice
(log entry 9). -/
def Obligations.ConstructionAdmitsExactlyTheLegalConfigurations : Prop :=
  ∀ cfg : Config,
    let legal : Prop :=
      (cfg.voiceCount = 2 ∨ cfg.voiceCount = 4 ∨ cfg.voiceCount = 6 ∨ cfg.voiceCount = 8 ∨ cfg.voiceCount = 10)
        ∧ (cfg.wavetableSize = 128 ∨ cfg.wavetableSize = 256)
        ∧ 0 < cfg.timerBaseRate.num ∧ 0 < cfg.timerBaseRate.den
        ∧ cfg.quarterSine.length = 16 ∧ (∀ q ∈ cfg.quarterSine, 1 ≤ q.toNat)
        ∧ (cfg.registerInterpreter = .present → cfg.wavetableSize = 256 ∧ 4 ≤ cfg.voiceCount)
    (legal → construct cfg = .ok (State.initial cfg) ∧ (State.initial cfg).Inv)
      ∧ (¬ legal → ∃ e, construct cfg = .error e)

/-- No step changes the configuration. -/
def Obligations.ConfigurationIsFixed : Prop :=
  ∀ s t : State, step s = .next t → t.cfg = s.cfg

/-! ## TICK -/

/-- A processed TICK: the next voice or pair advances, in order, and each adds its exact product to its sum, with no
overflow of the 20 bits.  Inside a round `rr` moves on and the outputs hold; on the TICK that completes a round the
outputs take bits 15:8 of the sums, and the sums and `rr` become 0.  The outputs are returned; nothing else changes. -/
def Obligations.ProcessedTickAdvancesMixesAndEmits : Prop :=
  ∀ s : State, s.Inv → processed s →
    let left := s.leftSum.toNat + total (leftShare s) s.rr (pair s)
    let right := s.rightSum.toNat + total (rightShare s) s.rr (pair s)
    let outR := if s.cfg.stereoMode = .disabled then s.outRight else outputByte right
    s.rr + pair s ≤ s.cfg.voiceCount ∧ left < 2 ^ 20 ∧ right < 2 ^ 20
      ∧ (s.rr + pair s < s.cfg.voiceCount → exec .tick s = .next
          { s with
            voices := advanced s s.rr (pair s), leftSum := BitVec.ofNat 20 left, rightSum := BitVec.ofNat 20 right,
            rr := s.rr + pair s, div := dividerAfter s, response := outputs s.cfg.stereoMode s.outLeft s.outRight })
      ∧ (s.rr + pair s = s.cfg.voiceCount → exec .tick s = .next
          { s with
            voices := advanced s s.rr (pair s), leftSum := 0, rightSum := 0, rr := 0, outLeft := outputByte left,
            outRight := outR, div := dividerAfter s, response := outputs s.cfg.stereoMode (outputByte left) outR })

/-- Under Half, a strobe on which `div` becomes 1 is processed as under Full and one on which it becomes 0 changes `div`
alone and returns the held outputs; under Full every strobe is processed alike, whatever `div` holds, and none
writes it. -/
def Obligations.TickUnderTheDivider : Prop :=
  ∀ s : State,
    (s.cfg.sampleRateDivider = .half → s.div = false →
        ∃ u, exec .tick { s with cfg := { s.cfg with sampleRateDivider := .full } } = .next u
          ∧ exec .tick s = .next { u with cfg := s.cfg, div := true })
      ∧ (s.cfg.sampleRateDivider = .half → s.div = true →
        exec .tick s = .next { s with div := false, response := outputs s.cfg.stereoMode s.outLeft s.outRight })
      ∧ (s.cfg.sampleRateDivider = .full →
        ∃ t, exec .tick s = .next t ∧ ∀ b : Bool, exec .tick { s with div := b } = .next { t with div := b })

/-- Every TICK, processed or skipped, returns the output registers as it leaves them, and leaves every byte of the
wavetable, every voice field but `phase`, and all state of the register interface as they were. -/
def Obligations.TickReturnsOutputsAndKeepsTheRest : Prop :=
  ∀ s : State, ∃ t, exec .tick s = .next t
    ∧ t.response = outputs t.cfg.stereoMode t.outLeft t.outRight
    ∧ t = { s with
        voices := t.voices, leftSum := t.leftSum, rightSum := t.rightSum, rr := t.rr, div := t.div,
        outLeft := t.outLeft, outRight := t.outRight, response := t.response }
    ∧ t.voices.length = s.voices.length
    ∧ ∀ (v : Nat) (o : Voice), s.voices[v]? = some o → ∃ p, t.voices[v]? = some { o with phase := p }

/-- A whole round under Full, from its start: after TicksPerRound strobes (40 R112) every voice has advanced once,
each output is bits 15:8 of the exact sum of its contributions, the sums are 0 again, and nothing else has changed. -/
def Obligations.RoundEmitsTheExactMix : Prop :=
  ∀ s : State, s.Inv → s.cfg.sampleRateDivider = .full → s.rr = 0 →
    let outL := outputByte (total (leftShare s) 0 s.cfg.voiceCount)
    let outR := if s.cfg.stereoMode = .disabled then s.outRight else outputByte (total (rightShare s) 0 s.cfg.voiceCount)
    perform (List.replicate (s.cfg.voiceCount / pair s) .tick) s = .next
      { s with
        voices := advanced s 0 s.cfg.voiceCount, outLeft := outL, outRight := outR,
        response := outputs s.cfg.stereoMode outL outR }

/-! ## FCLK -/

/-- FCLK steps the sequencer first and runs the units of the new step: length units on 0, 2, 4, 6 in the order of their
channels, then the sweep unit on 2 and 6, the envelope units on 7, none on 1, 3, 5. Without a register interface it is
refused. -/
def Obligations.FclkRunsTheUnitsOfItsStep : Prop :=
  ∀ s : State,
    let t := { s with frameStep := BitVec.ofNat 3 ((s.frameStep.toNat + 1) % 8) }
    let lengths := ((t.lengthUnit .ch0).lengthUnit .ch1).lengthUnit .ch2
    let swept := lengths.sweepUnit
    let stepped := (t.envelopeUnit .sq0).envelopeUnit .sq1
    let n := (s.frameStep.toNat + 1) % 8
    (present s →
        (n = 0 ∨ n = 4 → exec .fclk s = .next { lengths with response := .nothing })
          ∧ (n = 2 ∨ n = 6 → exec .fclk s = .next { swept with response := .nothing })
          ∧ (n = 7 → exec .fclk s = .next { stepped with response := .nothing })
          ∧ (n = 1 ∨ n = 3 ∨ n = 5 → exec .fclk s = .next { t with response := .nothing }))
      ∧ (s.cfg.registerInterpreter = .absent → exec .fclk s = .refused .noInterpreter)

/-- The length unit of a channel: it counts down while enabled and not 0, and mutes its own voice on the step from 1
to 0 alone; it changes nothing else. -/
def Obligations.LengthUnitCountsAndMutes : Prop :=
  ∀ (s : State) (c : Channel), s.Inv →
    let l := s.len c
    let counted : State := s.setLen c { l with counter := BitVec.ofNat 9 (l.counter.toNat - 1) }
    (l.enabled = false ∨ l.counter.toNat = 0 → s.lengthUnit c = s)
      ∧ (l.enabled = true → 2 ≤ l.counter.toNat → s.lengthUnit c = counted)
      ∧ (l.enabled = true → l.counter.toNat = 1 → s.lengthUnit c =
          { counted with
            voices := mapVoice s c.voice (fun o => { o with gain := bothGains s.cfg.stereoMode 0 }) })

/-- The envelope unit of a channel: off at period 0; otherwise it counts down, and where it fires at a non-zero
amplitude it steps that amplitude by one in its direction, an increase stopping at 255; it changes nothing else. -/
def Obligations.EnvelopeUnitStepsTheAmplitude : Prop :=
  ∀ (s : State) (c : SquareChannel), s.Inv →
    let e := s.env c
    let a := (s.voice c.channel.voice).gain.left.toNat
    let counted : State := s.setEnv c { e with counter := BitVec.ofNat 3 (e.counter.toNat - 1) }
    let reloaded : State := s.setEnv c { e with counter := e.period }
    let stepped : Nat → List Voice := fun x =>
      mapVoice s c.channel.voice (fun o => { o with gain := bothGains s.cfg.stereoMode (BitVec.ofNat 8 x) })
    (e.period = 0 → s.envelopeUnit c = s)
      ∧ (e.period ≠ 0 → 2 ≤ e.counter.toNat → s.envelopeUnit c = counted)
      ∧ (e.period ≠ 0 → e.counter.toNat ≤ 1 → a = 0 → s.envelopeUnit c = reloaded)
      ∧ (e.period ≠ 0 → e.counter.toNat ≤ 1 → a ≠ 0 → e.direction = .increase →
          s.envelopeUnit c = { reloaded with voices := stepped (min (a + 1) 255) })
      ∧ (e.period ≠ 0 → e.counter.toNat ≤ 1 → a ≠ 0 → e.direction = .decrease →
          s.envelopeUnit c = { reloaded with voices := stepped (a - 1) })

/-- The sweep unit: still while disabled or at period 0; otherwise it counts down, and where it fires it commits a new
frequency of at most 2047 to shadow, `fnum[0]` and voice 0's tune, and on a greater one mutes channel 0, disables itself
and commits nothing; it changes nothing else. -/
def Obligations.SweepUnitCommitsOrMutes : Prop :=
  ∀ s : State, s.Inv →
    let w := s.sweep
    let delta := w.shadowFrequency.toNat / 2 ^ w.shift.toNat
    let new := if w.negate then w.shadowFrequency.toNat - delta else w.shadowFrequency.toNat + delta
    let f := BitVec.ofNat 11 new
    delta ≤ w.shadowFrequency.toNat ∧ new ≤ 4094
      ∧ (w.enabled = false ∨ w.period = 0 → s.sweepUnit = s)
      ∧ (w.enabled = true → w.period ≠ 0 → 2 ≤ w.counter.toNat →
          s.sweepUnit = { s with sweep := { w with counter := BitVec.ofNat 3 (w.counter.toNat - 1) } })
      ∧ (w.enabled = true → w.period ≠ 0 → w.counter.toNat ≤ 1 → new ≤ 2047 →
          s.sweepUnit =
            { s with
              sweep := { w with counter := w.period, shadowFrequency := f }, fnum0 := f,
              voices := mapVoice s 0 (fun o => { o with tune := tuneOf s.cfg f }) })
      ∧ (w.enabled = true → w.period ≠ 0 → w.counter.toNat ≤ 1 → 2047 < new →
          s.sweepUnit =
            { s with
              sweep := { w with counter := w.period, enabled := false },
              voices := mapVoice s 0 (fun o => { o with gain := bothGains s.cfg.stereoMode 0 }) })

/-- A unit with period p fires on every p-th call after a reload, counting down one a call in between, and at once where
its counter is already 0. -/
def Obligations.CountdownFiresEveryPeriod : Prop :=
  ∀ p : BitVec 3, p ≠ 0 →
    (∀ n : Nat, (countedDown p n).toNat = p.toNat - n % p.toNat
        ∧ ((countDown p (countedDown p n)).2 = true ↔ (n + 1) % p.toNat = 0))
      ∧ countDown p 0 = (p, true)

/-- The order of the units that run on one step changes no result. -/
def Obligations.UnitsOfOneStepCommute : Prop :=
  ∀ s : State,
    (∀ c d : Channel, (s.lengthUnit c).lengthUnit d = (s.lengthUnit d).lengthUnit c)
      ∧ (∀ c : Channel, (s.lengthUnit c).sweepUnit = s.sweepUnit.lengthUnit c)
      ∧ (s.envelopeUnit .sq0).envelopeUnit .sq1 = (s.envelopeUnit .sq1).envelopeUnit .sq0

/-- The step cycles 0..7 for ever: n FCLKs complete and add n to it modulo 8; no event but FCLK, INIT and BEGIN
writes it, and those two set it to 0. -/
def Obligations.FrameStepCyclesForEver : Prop :=
  (∀ (n : Nat) (s : State), present s →
      ∃ t, perform (List.replicate n .fclk) s = .next t ∧ t.frameStep.toNat = (s.frameStep.toNat + n) % 8)
    ∧ ∀ (i : Instr) (s t : State), exec i s = .next t →
        if i = .initEvent ∨ i = .beginEvent then t.frameStep = 0
        else if i = .fclk then True
        else t.frameStep = s.frameStep

/-- What FCLK leaves as it is, on every step: the wavetable, the engine, the configuration, channel 2's level, the
frequency fields of channels 1 and 2, every parameter of the units, and every voice but for the tune of voice 0 and the
gains of voices 0, 1 and 2. -/
def Obligations.FclkFrame : Prop :=
  ∀ s : State, present s → ∃ t, exec .fclk s = .next t
    ∧ t = { s with
        voices := t.voices, fnum0 := t.fnum0,
        env0 := { s.env0 with counter := t.env0.counter }, env1 := { s.env1 with counter := t.env1.counter },
        len0 := { s.len0 with counter := t.len0.counter }, len1 := { s.len1 with counter := t.len1.counter },
        len2 := { s.len2 with counter := t.len2.counter },
        sweep := { s.sweep with
          counter := t.sweep.counter, shadowFrequency := t.sweep.shadowFrequency, enabled := t.sweep.enabled },
        frameStep := t.frameStep, response := .nothing }
    ∧ (∀ a, t.readByte a = s.readByte a)
    ∧ t.voices.length = s.voices.length
    ∧ ∀ (v : Nat) (o : Voice), s.voices[v]? = some o → ∃ p,
        t.voices[v]? = some p ∧ p.phase = o.phase ∧ p.waveSelect = o.waveSelect ∧ p.waveMask = o.waveMask
          ∧ (v ≠ 0 → p.tune = o.tune) ∧ (3 ≤ v → p.gain = o.gain)

/-! ## REGW -/

/-- SWEEP0 writes period, negate and shift from its bits and nothing else; bit 7 is ignored. -/
def Obligations.Sweep0WritesTheSweepParameters : Prop :=
  ∀ (s : State) (d : Byte), present s →
    exec (.regwSweep0 d) s = .next
      { s with
        sweep := { s.sweep with
          period := BitVec.ofNat 3 (d.toNat / 16 % 8), negate := d.getLsbD 3, shift := BitVec.ofNat 3 (d.toNat % 8) },
        response := .nothing }

/-- LENDUTY0 and LENDUTY1 select the duty slot of their own voice and load their own length counter, and write nothing
else. -/
def Obligations.LendutySelectsAndLoads : Prop :=
  ∀ (s : State) (d : Byte), present s →
    let select := BitVec.ofNat 8 (0x80 + 0x20 * (d.toNat / 64))
    let loaded : LengthCounter → LengthCounter := fun l =>
      { l with loadValue := BitVec.ofNat 8 (d.toNat % 64), counter := BitVec.ofNat 9 (64 - d.toNat % 64) }
    exec (.regwLenduty0 d) s = .next
        { s with
          voices := mapVoice s 0 (fun o => { o with waveSelect := select }), len0 := loaded s.len0,
          response := .nothing }
      ∧ exec (.regwLenduty1 d) s = .next
        { s with
          voices := mapVoice s 1 (fun o => { o with waveSelect := select }), len1 := loaded s.len1,
          response := .nothing }

/-- ENV0 and ENV1 write their own envelope, counter included, and nothing else. -/
def Obligations.EnvWritesTheEnvelope : Prop :=
  ∀ (s : State) (d : Byte), present s →
    let written : Envelope :=
      { startingVolume := BitVec.ofNat 8 (d.toNat / 16 * 16),
        direction := if d.getLsbD 3 then .increase else .decrease,
        period := BitVec.ofNat 3 (d.toNat % 8), counter := BitVec.ofNat 3 (d.toNat % 8) }
    exec (.regwEnv0 d) s = .next { s with env0 := written, response := .nothing }
      ∧ exec (.regwEnv1 d) s = .next { s with env1 := written, response := .nothing }

/-- FLO0, FLO1 and FLO2 latch the low byte of their own frequency field and write nothing else. -/
def Obligations.FloLatchesTheLowByte : Prop :=
  ∀ (s : State) (d : Byte), present s →
    exec (.regwFlo0 d) s = .next { s with fnum0 := withLow s.fnum0 d, response := .nothing }
      ∧ exec (.regwFlo1 d) s = .next { s with fnum1 := withLow s.fnum1 d, response := .nothing }
      ∧ exec (.regwFlo2 d) s = .next { s with fnum2 := withLow s.fnum2 d, response := .nothing }

/-- FHI0 latches the high bits and the length enable. With the trigger bit it then triggers channel 0 from the frequency
it has latched: both gains, phase and tune of voice 0, the envelope's counter, the sweep's load. Without it, it forces
both gains of voice 0 to 0, the tune kept. Nothing else changes. -/
def Obligations.Fhi0TriggersOrMutes : Prop :=
  ∀ (s : State) (d : Byte), s.Inv → present s →
    let f := withHigh s.fnum0 d
    (d.getLsbD 7 = true → exec (.regwFhi0 d) s = .next
        { s with
          fnum0 := f, len0 := { s.len0 with enabled := d.getLsbD 6 },
          voices := mapVoice s 0 (fun o =>
            { o with phase := 0, tune := tuneOf s.cfg f, gain := bothGains s.cfg.stereoMode s.env0.startingVolume }),
          env0 := { s.env0 with counter := s.env0.period },
          sweep := { s.sweep with shadowFrequency := f, counter := s.sweep.period, enabled := true },
          response := .nothing })
      ∧ (d.getLsbD 7 = false → exec (.regwFhi0 d) s = .next
        { s with
          fnum0 := f, len0 := { s.len0 with enabled := d.getLsbD 6 },
          voices := mapVoice s 0 (fun o => { o with gain := bothGains s.cfg.stereoMode 0 }), response := .nothing })

/-- FHI1 does as FHI0 for channel 1, the sweep unit untouched. -/
def Obligations.Fhi1TriggersOrMutes : Prop :=
  ∀ (s : State) (d : Byte), s.Inv → present s →
    let f := withHigh s.fnum1 d
    (d.getLsbD 7 = true → exec (.regwFhi1 d) s = .next
        { s with
          fnum1 := f, len1 := { s.len1 with enabled := d.getLsbD 6 },
          voices := mapVoice s 1 (fun o =>
            { o with phase := 0, tune := tuneOf s.cfg f, gain := bothGains s.cfg.stereoMode s.env1.startingVolume }),
          env1 := { s.env1 with counter := s.env1.period }, response := .nothing })
      ∧ (d.getLsbD 7 = false → exec (.regwFhi1 d) s = .next
        { s with
          fnum1 := f, len1 := { s.len1 with enabled := d.getLsbD 6 },
          voices := mapVoice s 1 (fun o => { o with gain := bothGains s.cfg.stereoMode 0 }), response := .nothing })

/-- FHI2 does as FHI0 for channel 2: its volume the wave level, no envelope and no sweep. -/
def Obligations.Fhi2TriggersOrMutes : Prop :=
  ∀ (s : State) (d : Byte), s.Inv → present s →
    let f := withHigh s.fnum2 d
    (d.getLsbD 7 = true → exec (.regwFhi2 d) s = .next
        { s with
          fnum2 := f, len2 := { s.len2 with enabled := d.getLsbD 6 },
          voices := mapVoice s 2 (fun o =>
            { o with phase := 0, tune := tuneOf s.cfg f, gain := bothGains s.cfg.stereoMode s.waveLevel }),
          response := .nothing })
      ∧ (d.getLsbD 7 = false → exec (.regwFhi2 d) s = .next
        { s with
          fnum2 := f, len2 := { s.len2 with enabled := d.getLsbD 6 },
          voices := mapVoice s 2 (fun o => { o with gain := bothGains s.cfg.stereoMode 0 }), response := .nothing })

/-- LEN2 loads channel 2's length counter, LVL2 sets its trigger volume from bits 6:5; neither writes anything else. -/
def Obligations.Len2LoadsAndLvl2SetsTheLevel : Prop :=
  ∀ (s : State) (d : Byte), present s →
    exec (.regwLen2 d) s = .next
        { s with
          len2 := { s.len2 with loadValue := d, counter := BitVec.ofNat 9 (256 - d.toNat) }, response := .nothing }
      ∧ exec (.regwLvl2 d) s = .next
        { s with waveLevel := [0x00, 0xF0, 0x78, 0x3C].getD (d.toNat / 32 % 4) 0, response := .nothing }

/-- PAT k writes the high nibble to 0x40 + 2k and the low nibble to 0x41 + 2k, unscaled, and writes nothing else. -/
def Obligations.PatWritesTwoSamples : Prop :=
  ∀ (s : State) (k : BitVec 4) (d : Byte), present s → ∃ t, exec (.regwPat k d) s = .next t
    ∧ (∀ a, t.readByte a =
        if a = 0x40 + 2 * k.toNat then BitVec.ofNat 8 (d.toNat / 16)
        else if a = 0x41 + 2 * k.toNat then BitVec.ofNat 8 (d.toNat % 16)
        else s.readByte a)
    ∧ t = { s with wavetable := t.wavetable, response := .nothing }

/-- A REGW to any address that no row names changes no state and returns nothing. -/
def Obligations.IgnoredWritesChangeNothing : Prop :=
  ∀ (s : State) (reg d : Byte), present s →
    exec (.regwIgnored reg d) s = .next { s with response := .nothing }

/-- Every REGW is refused without a register interface; with one it completes, and no REGW changes `rr`, `div`, the
mixer sums, the outputs or the frame step, or any field of voices 3 and above. -/
def Obligations.RegwLeavesTheEngineAlone : Prop :=
  ∀ (i : Instr) (s : State), isRegw i →
    (s.cfg.registerInterpreter = .absent → exec i s = .refused .noInterpreter)
      ∧ (present s → ∃ t, exec i s = .next t
        ∧ t.rr = s.rr ∧ t.div = s.div ∧ t.leftSum = s.leftSum ∧ t.rightSum = s.rightSum ∧ t.frameStep = s.frameStep
        ∧ t.outLeft = s.outLeft ∧ t.outRight = s.outRight ∧ ∀ v, 3 ≤ v → t.voices[v]? = s.voices[v]?)

/-! ## Host ports -/

/-- VPOKE of phase, tune, select and mask writes that field of that voice and nothing else. -/
def Obligations.VpokeWritesOneField : Prop :=
  ∀ (s : State) (v : BitVec 4) (x : BitVec 16) (b : Byte), v.toNat < s.cfg.voiceCount →
    exec (.vpokePhase v x) s = .next
        { s with voices := mapVoice s v.toNat (fun o => { o with phase := x }), response := .nothing }
      ∧ exec (.vpokeTune v x) s = .next
        { s with voices := mapVoice s v.toNat (fun o => { o with tune := x }), response := .nothing }
      ∧ exec (.vpokeSel v b) s = .next
        { s with voices := mapVoice s v.toNat (fun o => { o with waveSelect := b }), response := .nothing }
      ∧ exec (.vpokeMask v b) s = .next
        { s with voices := mapVoice s v.toNat (fun o => { o with waveMask := b }), response := .nothing }

/-- VPOKE.AMPL and VPOKE.AMPR: under Independent each writes its own gain; otherwise both write the one amplitude. -/
def Obligations.VpokeWritesGains : Prop :=
  ∀ (s : State) (v : BitVec 4) (x : Byte), s.Inv → v.toNat < s.cfg.voiceCount →
    exec (.vpokeAmpl v x) s = .next
        { s with
          voices := mapVoice s v.toNat (fun o => { o with
            gain := if s.cfg.stereoMode = .independent then .separate x o.gain.right else .shared x }),
          response := .nothing }
      ∧ exec (.vpokeAmpr v x) s = .next
        { s with
          voices := mapVoice s v.toNat (fun o => { o with
            gain := if s.cfg.stereoMode = .independent then .separate o.gain.left x else .shared x }),
          response := .nothing }

/-- VPEEK returns the voice's field, zero-extended, and changes nothing else. -/
def Obligations.VpeekReturnsTheField : Prop :=
  ∀ (s : State) (v : BitVec 4) (o : Voice), v.toNat < s.cfg.voiceCount → s.voices[v.toNat]? = some o →
    exec (.vpeekPhase v) s = .next { s with response := .field o.phase }
      ∧ exec (.vpeekTune v) s = .next { s with response := .field o.tune }
      ∧ exec (.vpeekSel v) s = .next { s with response := .field (BitVec.ofNat 16 o.waveSelect.toNat) }
      ∧ exec (.vpeekMask v) s = .next { s with response := .field (BitVec.ofNat 16 o.waveMask.toNat) }
      ∧ exec (.vpeekAmpl v) s = .next { s with response := .field (BitVec.ofNat 16 o.gain.left.toNat) }
      ∧ exec (.vpeekAmpr v) s = .next { s with response := .field (BitVec.ofNat 16 o.gain.right.toNat) }

/-- VPOKE.BADFIELD and VPEEK.BADFIELD stop in every state: refused for the voice where it does not exist, else for the
field. Every other VPOKE and VPEEK of a voice that does not exist is refused for the voice. -/
def Obligations.BadFieldsAndVoicesAreRefused : Prop :=
  ∀ (s : State) (v : BitVec 4) (f : BitVec 3) (x : BitVec 16) (b : Byte),
    let r : Refusal := if s.cfg.voiceCount ≤ v.toNat then .noSuchVoice else .noSuchField
    exec (.vpokeBadfield v f x) s = .refused r ∧ exec (.vpeekBadfield v f) s = .refused r
      ∧ (s.cfg.voiceCount ≤ v.toNat →
        ∀ i ∈ [Instr.vpokePhase v x, .vpokeTune v x, .vpokeSel v b, .vpokeMask v b, .vpokeAmpl v b, .vpokeAmpr v b,
            .vpeekPhase v, .vpeekTune v, .vpeekSel v, .vpeekMask v, .vpeekAmpl v, .vpeekAmpr v],
          exec i s = .refused .noSuchVoice)

/-- A field poked reads back as poked; under a shared amplitude, either gain's name reads what the other wrote. -/
def Obligations.PokedFieldsReadBack : Prop :=
  ∀ (s : State) (v : BitVec 4) (x : BitVec 16) (b : Byte), s.Inv → v.toNat < s.cfg.voiceCount →
    let returns : List Instr → BitVec 16 → Prop := fun is y => ∃ t, perform is s = .next t ∧ t.response = .field y
    let wide : BitVec 16 := BitVec.ofNat 16 b.toNat
    returns [.vpokePhase v x, .vpeekPhase v] x ∧ returns [.vpokeTune v x, .vpeekTune v] x
      ∧ returns [.vpokeSel v b, .vpeekSel v] wide ∧ returns [.vpokeMask v b, .vpeekMask v] wide
      ∧ returns [.vpokeAmpl v b, .vpeekAmpl v] wide ∧ returns [.vpokeAmpr v b, .vpeekAmpr v] wide
      ∧ (s.cfg.stereoMode ≠ .independent →
          returns [.vpokeAmpl v b, .vpeekAmpr v] wide ∧ returns [.vpokeAmpr v b, .vpeekAmpl v] wide)
      ∧ (s.cfg.stereoMode = .independent →
          returns [.vpokeAmpl v b, .vpeekAmpr v] (BitVec.ofNat 16 (s.voice v.toNat).gain.right.toNat)
            ∧ returns [.vpokeAmpr v b, .vpeekAmpl v] (BitVec.ofNat 16 (s.voice v.toNat).gain.left.toNat))

/-- WTWRITE writes one byte of the table and nothing else; WTREAD returns one and changes nothing else; both are refused
at an address the table does not have. -/
def Obligations.WavetablePorts : Prop :=
  ∀ (s : State) (a x : Byte),
    (a.toNat < s.cfg.wavetableSize →
        (∃ t, exec (.wtwrite a x) s = .next t
          ∧ (∀ b, t.readByte b = if b = a.toNat then x else s.readByte b)
          ∧ t = { s with wavetable := t.wavetable, response := .nothing })
        ∧ exec (.wtread a) s = .next { s with response := .sample (s.readByte a.toNat) })
      ∧ (s.cfg.wavetableSize ≤ a.toNat →
        exec (.wtwrite a x) s = .refused .noSuchAddress ∧ exec (.wtread a) s = .refused .noSuchAddress)

/-- OREAD returns the outputs and MREAD the mixer sums; neither changes anything else. -/
def Obligations.OutputAndMixerPorts : Prop :=
  ∀ s : State,
    exec .oread s = .next { s with response := outputs s.cfg.stereoMode s.outLeft s.outRight }
      ∧ exec .mread s = .next { s with response := .sums s.leftSum s.rightSum }

/-- INIT gives every state element its reset value, from any state and idempotently; the events still to come stay (the
model's choice, log entry 16). -/
def Obligations.InitGivesEveryResetValue : Prop :=
  ∀ s : State, ∃ t, exec .initEvent s = .next t
    ∧ t.voices = List.replicate s.cfg.voiceCount
        { phase := 0, tune := 0, waveSelect := 0, waveMask := 0, gain := bothGains s.cfg.stereoMode 0 }
    ∧ t.leftSum = 0 ∧ t.rightSum = 0 ∧ t.rr = 0 ∧ t.div = false ∧ t.outLeft = 0 ∧ t.outRight = 0
    ∧ t.fnum0 = 0 ∧ t.fnum1 = 0 ∧ t.fnum2 = 0
    ∧ t.env0 = ⟨0, 0, .decrease, 0⟩ ∧ t.env1 = ⟨0, 0, .decrease, 0⟩ ∧ t.waveLevel = 0
    ∧ t.len0 = ⟨false, 0, 0⟩ ∧ t.len1 = ⟨false, 0, 0⟩ ∧ t.len2 = ⟨false, 0, 0⟩
    ∧ t.sweep = ⟨0, false, 0, 0, false, 0⟩ ∧ t.frameStep = 0
    ∧ (∀ a, t.readByte a = initByte s.cfg a)
    ∧ t.cfg = s.cfg ∧ t.pending = s.pending ∧ t.response = .nothing
    ∧ exec .initEvent t = .next t

/-- After INIT, W[0..63] is the default sine: the quarter sine, its mirror, and the negation of that half about 256. -/
def Obligations.InitFillsTheDefaultSine : Prop :=
  ∀ s : State, s.cfg.legal → ∃ t, exec .initEvent s = .next t
    ∧ (∀ i, i < 16 → some (t.readByte i) = s.cfg.quarterSine[i]?)
    ∧ (∀ i, 16 ≤ i → i < 32 → some (t.readByte i) = s.cfg.quarterSine[31 - i]?)
    ∧ ∀ i, i < 32 → (t.readByte (i + 32)).toNat = (256 - (t.readByte i).toNat) % 256 ∧ 1 ≤ (t.readByte i).toNat

/-- BEGIN builds the duty slots, clears pattern RAM, sets up voices 0, 1, 2 and resets the register interface and the
frame step; it touches nothing else, and twice is as once. Without a register interface it is refused. -/
def Obligations.BeginStartsTheRegisterInterface : Prop :=
  ∀ s : State, s.Inv →
    (present s → ∃ t, exec .beginEvent s = .next t
      ∧ (∀ a, t.readByte a = begunByte s a)
      ∧ t = { s with
          voices := s.voices.mapIdx (begunVoice s.cfg.stereoMode), wavetable := t.wavetable,
          fnum0 := 0, fnum1 := 0, fnum2 := 0, env0 := ⟨0, 0, .decrease, 0⟩, env1 := ⟨0, 0, .decrease, 0⟩, waveLevel := 0,
          len0 := ⟨false, 0, 0⟩, len1 := ⟨false, 0, 0⟩, len2 := ⟨false, 0, 0⟩, sweep := ⟨0, false, 0, 0, false, 0⟩,
          frameStep := 0, response := .nothing }
      ∧ exec .beginEvent t = .next t)
      ∧ (s.cfg.registerInterpreter = .absent → exec .beginEvent s = .refused .noInterpreter)

/-! ## Across all events -/

/-- Each voice field is written by the events that 10_state R24 and the rules of INIT and BEGIN name, and by no other. -/
def Obligations.WritersOfEachVoiceField : Prop :=
  ∀ (i : Instr) (s t : State), exec i s = .next t →
    (¬ writesPhase i → t.voices.map Voice.phase = s.voices.map Voice.phase)
      ∧ (¬ writesTune i → t.voices.map Voice.tune = s.voices.map Voice.tune)
      ∧ (¬ writesSelect i → t.voices.map Voice.waveSelect = s.voices.map Voice.waveSelect)
      ∧ (¬ writesMask i → t.voices.map Voice.waveMask = s.voices.map Voice.waveMask)
      ∧ (¬ writesGain i → t.voices.map Voice.gain = s.voices.map Voice.gain)

/-- No event but TICK and INIT writes `rr`, the divider, the mixer sums or the output registers; BEGIN writes none of them
(44 R233). -/
def Obligations.WritersOfTheEngine : Prop :=
  ∀ (i : Instr) (s t : State), i ≠ .tick → i ≠ .initEvent → exec i s = .next t →
    t.rr = s.rr ∧ t.div = s.div ∧ t.leftSum = s.leftSum ∧ t.rightSum = s.rightSum
      ∧ t.outLeft = s.outLeft ∧ t.outRight = s.outRight

/-- No event but PAT, WTWRITE, INIT and BEGIN changes a byte of the wavetable. -/
def Obligations.WritersOfTheWavetable : Prop :=
  ∀ (i : Instr) (s t : State), (∀ k d, i ≠ .regwPat k d) → (∀ a x, i ≠ .wtwrite a x) → i ≠ .initEvent →
    i ≠ .beginEvent → exec i s = .next t → ∀ a, t.readByte a = s.readByte a

/-! ## Frequency conversion and the assembler -/

/-- `tuneOf` is the floor of the exact rational where that fits 16 bits, and the open parameter's value of that floor
where it does not. -/
def Obligations.TuneOfIsTheExactFloor : Prop :=
  ∀ (cfg : Config) (n : BitVec 11), cfg.legal →
    (⌊exactTuning cfg n⌋ < 65536 → ((tuneOf cfg n).toNat : ℤ) = ⌊exactTuning cfg n⌋)
      ∧ (65536 ≤ ⌊exactTuning cfg n⌋ → tuneOf cfg n = Config.tuneOverflow cfg ⌊exactTuning cfg n⌋.toNat)

/-- What the pseudo-instructions expand to, in terms of the events they name. -/
def Obligations.PseudoInstructionsExpand : Prop :=
  ∀ (cfg : Config) (high : Channel → BitVec 3),
    let word : Line → List EventWord := assemble cfg high
    let flo : Channel → Nat := fun c => match c with | .ch0 => 0x13 | .ch1 => 0x18 | .ch2 => 0x1D
    let fhi : Channel → Nat := fun c => match c with | .ch0 => 0x14 | .ch1 => 0x19 | .ch2 => 0x1E
    (∀ (c : Channel) (n : BitVec 11),
        word (.note c n.toNat) = word (.regw (flo c) (n.toNat % 256)) ++ word (.regw (fhi c) (0x80 + n.toNat / 256)))
      ∧ (∀ c : Channel, word (.noteoff c) = word (.regw (fhi c) (high c).toNat))
      ∧ (∀ n : Nat, word (.ticks n) = (List.replicate n (word .tick)).flatten
        ∧ word (.fclks n) = (List.replicate n (word .fclk)).flatten)
      ∧ word .round = (List.replicate (strobes cfg) (word .tick)).flatten
      ∧ (∀ bytes : List Nat, word (.pattern bytes) = (bytes.mapIdx (fun k d => word (.pat k d))).flatten)
      ∧ ∀ (a : Nat) (bytes : List Nat), word (.wavefill a bytes) = (bytes.mapIdx (fun i x => word (.wtw (a + i) x))).flatten

/-- The words of `note C, N`, performed: channel C's field is N, its voice plays N's tune from phase 0, and its length
counter is disabled. -/
def Obligations.NotePlaysItsFrequency : Prop :=
  ∀ (s : State) (high : Channel → BitVec 3) (c : Channel) (n : BitVec 11), s.Inv → present s →
    ∃ t, perform ((assemble s.cfg high (.note c n.toNat)).map decode) s = .next t
      ∧ t.fnum c = n ∧ (t.voice c.voice).phase = 0 ∧ (t.voice c.voice).tune = tuneOf s.cfg n
      ∧ (t.voice c.voice).gain = bothGains s.cfg.stereoMode (s.startingVolume c) ∧ (t.len c).enabled = false

/-- The word of `noteoff C`, performed with the high bits the channel has: its frequency field is kept and its voice is
silent. -/
def Obligations.NoteoffSilencesAndKeepsTheFrequency : Prop :=
  ∀ (s : State) (high : Channel → BitVec 3) (c : Channel), s.Inv → present s →
    (∀ d, high d = BitVec.ofNat 3 ((s.fnum d).toNat / 256)) →
    ∃ t, perform ((assemble s.cfg high (.noteoff c)).map decode) s = .next t
      ∧ t.fnum c = s.fnum c ∧ (t.voice c.voice).gain = bothGains s.cfg.stereoMode 0
      ∧ (t.voice c.voice).tune = (s.voice c.voice).tune
end

