-- ==== Sys2Proof/Laws/Encoding.lean ====
section
/-! SUPPORT. The fields of the event-word formats, read back: a decoder sees each field as it was put in
(30_encoding R82 to R85, R94). -/

namespace Sys2Proof

/-- A field of the high part of an append is a field of that part. -/
theorem extractLsb'_high {v w start len : Nat} {a : BitVec v} {b : BitVec w} (h : w ≤ start) :
    (a ++ b).extractLsb' start len = a.extractLsb' (start - w) len := BitVec.extractLsb'_append_eq_of_le h

/-- A field of the low part of an append is a field of that part. -/
theorem extractLsb'_low {v w start len : Nat} {a : BitVec v} {b : BitVec w} (h : start + len ≤ w) :
    (a ++ b).extractLsb' start len = b.extractLsb' start len := BitVec.extractLsb'_append_eq_of_add_le h

/-- The whole of a vector as a field. -/
theorem extractLsb'_whole {w : Nat} (a : BitVec w) : a.extractLsb' 0 w = a := by simp

/-- The kind of a word is its first four bits. -/
theorem kind_append (kind : BitVec 4) (x : BitVec 28) : (kind ++ x : BitVec 32).extractLsb' 28 4 = kind := by
  rw [extractLsb'_high (by decide)]; exact extractLsb'_whole kind

/-- The fields of a word laid out as kind, four bits, a byte, a byte, a byte (REGW, WTWRITE, WTREAD). -/
theorem byte_fields (kind x : BitVec 4) (r h d : Byte) :
    (kind ++ x ++ r ++ h ++ d : BitVec 32).extractLsb' 28 4 = kind
      ∧ (kind ++ x ++ r ++ h ++ d : BitVec 32).extractLsb' 16 8 = r
      ∧ (kind ++ x ++ r ++ h ++ d : BitVec 32).extractLsb' 0 8 = d := by
  simp (disch := decide) only [extractLsb'_high, extractLsb'_low, extractLsb'_whole, Nat.reduceSub, and_self]

/-- The fields of a word laid out as VPOKE and VPEEK. -/
theorem voice_fields (kind voice : BitVec 4) (b : BitVec 1) (field : BitVec 3) (x : BitVec 4) (value : BitVec 16) :
    (kind ++ voice ++ b ++ field ++ x ++ value : BitVec 32).extractLsb' 28 4 = kind
      ∧ (kind ++ voice ++ b ++ field ++ x ++ value : BitVec 32).extractLsb' 24 4 = voice
      ∧ (kind ++ voice ++ b ++ field ++ x ++ value : BitVec 32).extractLsb' 20 3 = field
      ∧ (kind ++ voice ++ b ++ field ++ x ++ value : BitVec 32).extractLsb' 0 16 = value := by
  simp (disch := decide) only [extractLsb'_high, extractLsb'_low, extractLsb'_whole, Nat.reduceSub, and_self]

/-- A REGW word decodes by its register and data byte, whatever its other bits. -/
theorem decode_regw (x : BitVec 4) (r h d : Byte) : decode (0x0#4 ++ x ++ r ++ h ++ d : BitVec 32) = decodeRegw r d := by
  unfold decode
  simp only [(byte_fields 0x0#4 x r h d).1, (byte_fields 0x0#4 x r h d).2.1, (byte_fields 0x0#4 x r h d).2.2]
  rfl

/-- A VPOKE word decodes by its voice, field and value, whatever its other bits. -/
theorem decode_vpoke (voice : BitVec 4) (b : BitVec 1) (field : BitVec 3) (x : BitVec 4) (value : BitVec 16) :
    decode (0x3#4 ++ voice ++ b ++ field ++ x ++ value : BitVec 32) = decodeVpoke voice field value := by
  obtain ⟨h1, h2, h3, h4⟩ := voice_fields 0x3#4 voice b field x value
  unfold decode
  simp only [h1, h2, h3, h4]
  rfl

/-- A VPEEK word decodes by its voice and field, whatever its other bits. -/
theorem decode_vpeek (voice : BitVec 4) (b : BitVec 1) (field : BitVec 3) (x : BitVec 4) (value : BitVec 16) :
    decode (0x4#4 ++ voice ++ b ++ field ++ x ++ value : BitVec 32) = decodeVpeek voice field := by
  obtain ⟨h1, h2, h3, _⟩ := voice_fields 0x4#4 voice b field x value
  unfold decode
  simp only [h1, h2, h3]
  rfl

/-- The sixteen pattern registers (30_encoding R87). -/
theorem decodeRegw_pattern (k : BitVec 4) (d : Byte) : decodeRegw (0x3#4 ++ k) d = .regwPat k d := by
  have h4 : (0x3#4 ++ k : Byte).extractLsb' 4 4 = 0x3 := by rw [extractLsb'_high (by decide)]; exact extractLsb'_whole _
  have h0 : (0x3#4 ++ k : Byte).extractLsb' 0 4 = k := by rw [extractLsb'_low (by decide)]; exact extractLsb'_whole _
  have hn : (0x3#4 ++ k : Byte).toNat = 48 + k.toNat := by revert k; decide
  unfold decodeRegw
  simp only [h4, h0]
  split <;> first | omega | rfl

/-- Every register that no row names is ignored (30_encoding R87, R91). -/
theorem decodeRegw_ignored {reg : Byte} (d : Byte) (h : ¬ decodedRegister reg) :
    decodeRegw reg d = .regwIgnored reg d := by
  have hn : ∀ r : Byte, ¬ decodedRegister r →
      (∀ n ∈ namedRegisters, r.toNat ≠ n.toNat) ∧ r.extractLsb' 4 4 ≠ 0x3 := by decide
  obtain ⟨h1, h2⟩ := hn reg h
  simp only [namedRegisters, List.mem_cons, List.not_mem_nil, or_false, forall_eq_or_imp, forall_eq] at h1
  unfold decodeRegw
  split <;> first | exact if_neg h2 | (exfalso; simp_all)

/-- AND of appended parts is part by part. -/
theorem and_append_five {a b c d e : Nat} (x₁ y₁ : BitVec a) (x₂ y₂ : BitVec b) (x₃ y₃ : BitVec c) (x₄ y₄ : BitVec d)
    (x₅ y₅ : BitVec e) :
    (x₁ ++ x₂ ++ x₃ ++ x₄ ++ x₅) &&& (y₁ ++ y₂ ++ y₃ ++ y₄ ++ y₅)
      = (x₁ &&& y₁) ++ (x₂ &&& y₂) ++ (x₃ &&& y₃) ++ (x₄ &&& y₄) ++ (x₅ &&& y₅) := by
  simp only [BitVec.and_append]

/-- The bits of a REGW word under a mask of its kind and register. -/
theorem regwWord_and (reg m d : Byte) :
    regwWord reg d &&& (0xF#4 ++ 0x0#4 ++ m ++ 0x00#8 ++ 0x00#8 : BitVec 32) = regwWord (reg &&& m) 0x00 :=
  (and_append_five 0x0#4 0xF#4 0x0#4 0x0#4 reg m 0x00#8 0x00#8 d 0x00#8).trans (by simp only [BitVec.and_zero]; rfl)

/-- The bits of a wavetable word under the mask of its kind. -/
theorem wavetableWord_and (kind : BitVec 4) (addr wdata : Byte) :
    wavetableWord kind addr wdata &&& (0xF#4 ++ 0x0#4 ++ 0x00#8 ++ 0x00#8 ++ 0x00#8 : BitVec 32)
      = wavetableWord kind 0 0 :=
  (and_append_five kind 0xF#4 0x0#4 0x0#4 addr 0x00#8 0x00#8 0x00#8 wdata 0x00#8).trans (by
    simp only [BitVec.and_zero]
    rw [show kind &&& 0xF#4 = kind by revert kind; decide]
    rfl)

/-- The bits of a voice word under a mask of its kind and field. -/
theorem voiceWord_and (kind voice : BitVec 4) (field m : BitVec 3) (value : BitVec 16) :
    voiceWord kind voice field value &&& (0xF#4 ++ 0x0#4 ++ 0#1 ++ m ++ 0x0#4 ++ 0x0000#16 : BitVec 32)
      = voiceWord kind 0 (field &&& m) 0 :=
  (BitVec.and_append (x₁ := kind ++ voice ++ 0#1 ++ field ++ 0x0#4) (x₂ := 0xF#4 ++ 0x0#4 ++ 0#1 ++ m ++ 0x0#4)
    (y₁ := value) (y₂ := 0x0000#16)).trans (by
      rw [and_append_five, show kind &&& 0xF#4 = kind by revert kind; decide]
      simp only [BitVec.and_zero]
      rfl)

end Sys2Proof
end

