-- ==== Sys2Proof/Laws/Memory.lean ====
section
/-! SUPPORT. The laws of WavetableMemory: a read after a write, the canonical form kept by every operation, and equal
reads of canonical memories mean equal memories. -/

namespace Sys2Proof.Machine

variable {cfg : Config} {m m' : Memory} {a b : Nat} {x : Byte}

theorem listedByte_dropCell (m : Memory) (a b : Nat) :
    listedByte (dropCell m a) b = if b = a then none else listedByte m b := by
  induction m with
  | nil => simp [dropCell, listedByte]
  | cons c m ih =>
    obtain ⟨d, y⟩ := c
    simp only [dropCell]
    split <;> simp only [listedByte, ih] <;> grind

theorem listedByte_putCell (m : Memory) (a b : Nat) (x : Byte) :
    listedByte (putCell m a x) b = if b = a then some x else listedByte m b := by
  induction m with
  | nil => simp [putCell, listedByte]
  | cons c m ih =>
    obtain ⟨d, y⟩ := c
    simp only [putCell]
    split
    · simp only [listedByte]
    · split <;> simp only [listedByte, ih] <;> grind

/-- A read after a write. -/
@[simp] theorem memRead_memWrite (cfg : Config) (m : Memory) (a b : Nat) (x : Byte) :
    memRead cfg (memWrite cfg m a x) b = if b = a then x else memRead cfg m b := by
  unfold memRead memWrite
  split
  · next h => rw [listedByte_dropCell]; split <;> simp_all
  · rw [listedByte_putCell]; split <;> simp

/-- A read after a fill. -/
@[simp] theorem memRead_memFill (cfg : Config) (m : Memory) (base : Nat) (g : Nat → Byte) (n b : Nat) :
    memRead cfg (memFill cfg m base g n) b = if base ≤ b ∧ b < base + n then g (b - base) else memRead cfg m b := by
  induction n with
  | zero => simp [memFill]
  | succ n ih =>
    simp only [memFill, memRead_memWrite, ih]
    by_cases h : b = base + n
    · subst h; simp
    · have : (base ≤ b ∧ b < base + n) ↔ (base ≤ b ∧ b < base + (n + 1)) := by omega
      simp [h, this]

/-- An empty memory reads as its reset content. -/
@[simp] theorem memRead_nil (cfg : Config) (a : Nat) : memRead cfg [] a = resetByte cfg a := rfl

theorem mem_dropCell {c : Host.Cell} (h : c ∈ dropCell m a) : c ∈ m ∧ c.1 ≠ a := by
  induction m with
  | nil => simp [dropCell] at h
  | cons e m ih =>
    obtain ⟨d, y⟩ := e
    simp only [dropCell] at h
    split at h
    · exact ⟨List.mem_cons_of_mem _ (ih h).1, (ih h).2⟩
    · next hd =>
      rcases List.mem_cons.mp h with rfl | h
      · exact ⟨List.mem_cons_self, fun h => hd h.symm⟩
      · exact ⟨List.mem_cons_of_mem _ (ih h).1, (ih h).2⟩

theorem mem_putCell {c : Host.Cell} (h : c ∈ putCell m a x) : c = (a, x) ∨ c ∈ m := by
  induction m with
  | nil => simp [putCell] at h; exact .inl h
  | cons e m ih =>
    obtain ⟨d, y⟩ := e
    simp only [putCell] at h
    split at h
    · simpa using h
    · split at h
      · rcases List.mem_cons.mp h with h | h
        · exact .inl h
        · exact .inr (List.mem_cons_of_mem _ h)
      · rcases List.mem_cons.mp h with h | h
        · exact .inr (h ▸ List.mem_cons_self)
        · exact (ih h).imp id (List.mem_cons_of_mem _)

theorem dropCell_rising (h : m.Pairwise (fun c e : Host.Cell => c.1 < e.1)) :
    (dropCell m a).Pairwise (fun c e : Host.Cell => c.1 < e.1) := by
  induction m with
  | nil => simp [dropCell]
  | cons e m ih =>
    obtain ⟨d, y⟩ := e
    rw [List.pairwise_cons] at h
    simp only [dropCell]
    split
    · exact ih h.2
    · exact List.pairwise_cons.mpr ⟨fun c hc => h.1 c (mem_dropCell hc).1, ih h.2⟩

theorem putCell_rising (h : m.Pairwise (fun c e : Host.Cell => c.1 < e.1)) :
    (putCell m a x).Pairwise (fun c e : Host.Cell => c.1 < e.1) := by
  induction m with
  | nil => simp [putCell]
  | cons e m ih =>
    obtain ⟨d, y⟩ := e
    have h' := List.pairwise_cons.mp h
    simp only [putCell]
    split
    · next hd =>
      refine List.pairwise_cons.mpr ⟨fun c hc => ?_, h⟩
      rcases List.mem_cons.mp hc with rfl | hc
      · exact hd
      · exact lt_trans hd (h'.1 c hc)
    · split
      · next hd => subst hd; exact List.pairwise_cons.mpr ⟨h'.1, h'.2⟩
      · next hd hne =>
        refine List.pairwise_cons.mpr ⟨fun c hc => ?_, ih h'.2⟩
        rcases mem_putCell hc with rfl | hc
        · show d < a
          omega
        · exact h'.1 c hc

/-- A write to an address the table has keeps the canonical form. -/
theorem memWrite_wf (h : Memory.wf cfg m) (ha : a < cfg.wavetableSize) : Memory.wf cfg (memWrite cfg m a x) := by
  unfold memWrite
  split
  · exact ⟨dropCell_rising h.1, fun c hc => h.2 c (mem_dropCell hc).1⟩
  · next hx =>
    refine ⟨putCell_rising h.1, fun c hc => ?_⟩
    rcases mem_putCell hc with rfl | hc
    · exact ⟨ha, hx⟩
    · exact h.2 c hc

/-- A fill of addresses the table has keeps the canonical form. -/
theorem memFill_wf {base n : Nat} {g : Nat → Byte} (h : Memory.wf cfg m) (hn : base + n ≤ cfg.wavetableSize) :
    Memory.wf cfg (memFill cfg m base g n) := by
  induction n with
  | zero => exact h
  | succ n ih => exact memWrite_wf (ih (by omega)) (by omega)

/-- The empty memory has the canonical form. -/
theorem memWf_nil (cfg : Config) : Memory.wf cfg [] := ⟨List.Pairwise.nil, fun _ h => nomatch h⟩

theorem listedByte_of_mem {y : Byte} (h : m.Pairwise (fun c e : Host.Cell => c.1 < e.1)) (hm : (a, y) ∈ m) :
    listedByte m a = some y := by
  induction m with
  | nil => simp at hm
  | cons e m ih =>
    obtain ⟨d, z⟩ := e
    rw [List.pairwise_cons] at h
    simp only [listedByte]
    rcases List.mem_cons.mp hm with hm | hm
    · cases hm; simp
    · have := h.1 _ hm
      rw [if_neg (by simp only at this; omega), ih h.2 hm]

theorem mem_of_listedByte {y : Byte} (h : listedByte m a = some y) : (a, y) ∈ m := by
  induction m with
  | nil => simp [listedByte] at h
  | cons e m ih =>
    obtain ⟨d, z⟩ := e
    simp only [listedByte] at h
    split at h
    · simp_all
    · exact List.mem_cons_of_mem _ (ih h)

/-- In a canonical memory, the cells are the addresses that do not read as their reset content. -/
theorem mem_iff_memRead (h : Memory.wf cfg m) {c : Host.Cell} :
    c ∈ m ↔ memRead cfg m c.1 = c.2 ∧ c.2 ≠ resetByte cfg c.1 := by
  constructor
  · intro hc
    exact ⟨by simp [memRead, listedByte_of_mem h.1 hc], (h.2 c hc).2⟩
  · rintro ⟨hr, hne⟩
    unfold memRead at hr
    cases hl : listedByte m c.1 with
    | none => simp [hl] at hr; exact absurd hr.symm hne
    | some y => simp [hl] at hr; subst hr; exact mem_of_listedByte hl

/-- Canonical memories that read the same everywhere are equal. -/
theorem memory_ext (h : Memory.wf cfg m) (h' : Memory.wf cfg m') (hr : ∀ a, memRead cfg m a = memRead cfg m' a) : m = m' := by
  refine List.Perm.eq_of_pairwise (le := fun c e => c.1 < e.1) ?_ h.1 h'.1 ?_
  · intro c e _ _ hce hec
    exact absurd hce (by omega)
  · have nd : ∀ {k : Memory}, k.Pairwise (fun c e => c.1 < e.1) → k.Nodup :=
      fun hk => hk.imp (fun hce heq => by rw [heq] at hce; exact lt_irrefl _ hce)
    rw [List.perm_ext_iff_of_nodup (nd h.1) (nd h'.1)]
    intro c
    rw [mem_iff_memRead h, mem_iff_memRead h', hr]

end Sys2Proof.Machine
end

