-- ==== Sys2Proof/Laws/State.lean ====
section
/-! SUPPORT. One lemma per field per update of the state (Machine/Ops.lean), so that no later proof unfolds an update. -/

namespace Sys2Proof.Machine

section
variable (s : State)

@[simp] theorem State.modifyVoice_cfg (v : Nat) (f : Voice → Voice) :
    (s.modifyVoice v f).cfg = s.cfg := rfl
@[simp] theorem State.modifyVoice_voices (v : Nat) (f : Voice → Voice) :
    (s.modifyVoice v f).voices = s.voices.modify v f := rfl
@[simp] theorem State.modifyVoice_wavetable (v : Nat) (f : Voice → Voice) :
    (s.modifyVoice v f).wavetable = s.wavetable := rfl
@[simp] theorem State.modifyVoice_leftSum (v : Nat) (f : Voice → Voice) :
    (s.modifyVoice v f).leftSum = s.leftSum := rfl
@[simp] theorem State.modifyVoice_rightSum (v : Nat) (f : Voice → Voice) :
    (s.modifyVoice v f).rightSum = s.rightSum := rfl
@[simp] theorem State.modifyVoice_rr (v : Nat) (f : Voice → Voice) :
    (s.modifyVoice v f).rr = s.rr := rfl
@[simp] theorem State.modifyVoice_div (v : Nat) (f : Voice → Voice) :
    (s.modifyVoice v f).div = s.div := rfl
@[simp] theorem State.modifyVoice_outLeft (v : Nat) (f : Voice → Voice) :
    (s.modifyVoice v f).outLeft = s.outLeft := rfl
@[simp] theorem State.modifyVoice_outRight (v : Nat) (f : Voice → Voice) :
    (s.modifyVoice v f).outRight = s.outRight := rfl
@[simp] theorem State.modifyVoice_fnum0 (v : Nat) (f : Voice → Voice) :
    (s.modifyVoice v f).fnum0 = s.fnum0 := rfl
@[simp] theorem State.modifyVoice_fnum1 (v : Nat) (f : Voice → Voice) :
    (s.modifyVoice v f).fnum1 = s.fnum1 := rfl
@[simp] theorem State.modifyVoice_fnum2 (v : Nat) (f : Voice → Voice) :
    (s.modifyVoice v f).fnum2 = s.fnum2 := rfl
@[simp] theorem State.modifyVoice_env0 (v : Nat) (f : Voice → Voice) :
    (s.modifyVoice v f).env0 = s.env0 := rfl
@[simp] theorem State.modifyVoice_env1 (v : Nat) (f : Voice → Voice) :
    (s.modifyVoice v f).env1 = s.env1 := rfl
@[simp] theorem State.modifyVoice_waveLevel (v : Nat) (f : Voice → Voice) :
    (s.modifyVoice v f).waveLevel = s.waveLevel := rfl
@[simp] theorem State.modifyVoice_len0 (v : Nat) (f : Voice → Voice) :
    (s.modifyVoice v f).len0 = s.len0 := rfl
@[simp] theorem State.modifyVoice_len1 (v : Nat) (f : Voice → Voice) :
    (s.modifyVoice v f).len1 = s.len1 := rfl
@[simp] theorem State.modifyVoice_len2 (v : Nat) (f : Voice → Voice) :
    (s.modifyVoice v f).len2 = s.len2 := rfl
@[simp] theorem State.modifyVoice_sweep (v : Nat) (f : Voice → Voice) :
    (s.modifyVoice v f).sweep = s.sweep := rfl
@[simp] theorem State.modifyVoice_frameStep (v : Nat) (f : Voice → Voice) :
    (s.modifyVoice v f).frameStep = s.frameStep := rfl
@[simp] theorem State.modifyVoice_pending (v : Nat) (f : Voice → Voice) :
    (s.modifyVoice v f).pending = s.pending := rfl
@[simp] theorem State.modifyVoice_response (v : Nat) (f : Voice → Voice) :
    (s.modifyVoice v f).response = s.response := rfl

@[simp] theorem State.setPhase_cfg (v : Nat) (x : BitVec 16) :
    (s.setPhase v x).cfg = s.cfg := rfl
@[simp] theorem State.setPhase_voices (v : Nat) (x : BitVec 16) :
    (s.setPhase v x).voices = s.voices.modify v (fun o => { o with phase := x }) := rfl
@[simp] theorem State.setPhase_wavetable (v : Nat) (x : BitVec 16) :
    (s.setPhase v x).wavetable = s.wavetable := rfl
@[simp] theorem State.setPhase_leftSum (v : Nat) (x : BitVec 16) :
    (s.setPhase v x).leftSum = s.leftSum := rfl
@[simp] theorem State.setPhase_rightSum (v : Nat) (x : BitVec 16) :
    (s.setPhase v x).rightSum = s.rightSum := rfl
@[simp] theorem State.setPhase_rr (v : Nat) (x : BitVec 16) :
    (s.setPhase v x).rr = s.rr := rfl
@[simp] theorem State.setPhase_div (v : Nat) (x : BitVec 16) :
    (s.setPhase v x).div = s.div := rfl
@[simp] theorem State.setPhase_outLeft (v : Nat) (x : BitVec 16) :
    (s.setPhase v x).outLeft = s.outLeft := rfl
@[simp] theorem State.setPhase_outRight (v : Nat) (x : BitVec 16) :
    (s.setPhase v x).outRight = s.outRight := rfl
@[simp] theorem State.setPhase_fnum0 (v : Nat) (x : BitVec 16) :
    (s.setPhase v x).fnum0 = s.fnum0 := rfl
@[simp] theorem State.setPhase_fnum1 (v : Nat) (x : BitVec 16) :
    (s.setPhase v x).fnum1 = s.fnum1 := rfl
@[simp] theorem State.setPhase_fnum2 (v : Nat) (x : BitVec 16) :
    (s.setPhase v x).fnum2 = s.fnum2 := rfl
@[simp] theorem State.setPhase_env0 (v : Nat) (x : BitVec 16) :
    (s.setPhase v x).env0 = s.env0 := rfl
@[simp] theorem State.setPhase_env1 (v : Nat) (x : BitVec 16) :
    (s.setPhase v x).env1 = s.env1 := rfl
@[simp] theorem State.setPhase_waveLevel (v : Nat) (x : BitVec 16) :
    (s.setPhase v x).waveLevel = s.waveLevel := rfl
@[simp] theorem State.setPhase_len0 (v : Nat) (x : BitVec 16) :
    (s.setPhase v x).len0 = s.len0 := rfl
@[simp] theorem State.setPhase_len1 (v : Nat) (x : BitVec 16) :
    (s.setPhase v x).len1 = s.len1 := rfl
@[simp] theorem State.setPhase_len2 (v : Nat) (x : BitVec 16) :
    (s.setPhase v x).len2 = s.len2 := rfl
@[simp] theorem State.setPhase_sweep (v : Nat) (x : BitVec 16) :
    (s.setPhase v x).sweep = s.sweep := rfl
@[simp] theorem State.setPhase_frameStep (v : Nat) (x : BitVec 16) :
    (s.setPhase v x).frameStep = s.frameStep := rfl
@[simp] theorem State.setPhase_pending (v : Nat) (x : BitVec 16) :
    (s.setPhase v x).pending = s.pending := rfl
@[simp] theorem State.setPhase_response (v : Nat) (x : BitVec 16) :
    (s.setPhase v x).response = s.response := rfl

@[simp] theorem State.setTune_cfg (v : Nat) (x : BitVec 16) :
    (s.setTune v x).cfg = s.cfg := rfl
@[simp] theorem State.setTune_voices (v : Nat) (x : BitVec 16) :
    (s.setTune v x).voices = s.voices.modify v (fun o => { o with tune := x }) := rfl
@[simp] theorem State.setTune_wavetable (v : Nat) (x : BitVec 16) :
    (s.setTune v x).wavetable = s.wavetable := rfl
@[simp] theorem State.setTune_leftSum (v : Nat) (x : BitVec 16) :
    (s.setTune v x).leftSum = s.leftSum := rfl
@[simp] theorem State.setTune_rightSum (v : Nat) (x : BitVec 16) :
    (s.setTune v x).rightSum = s.rightSum := rfl
@[simp] theorem State.setTune_rr (v : Nat) (x : BitVec 16) :
    (s.setTune v x).rr = s.rr := rfl
@[simp] theorem State.setTune_div (v : Nat) (x : BitVec 16) :
    (s.setTune v x).div = s.div := rfl
@[simp] theorem State.setTune_outLeft (v : Nat) (x : BitVec 16) :
    (s.setTune v x).outLeft = s.outLeft := rfl
@[simp] theorem State.setTune_outRight (v : Nat) (x : BitVec 16) :
    (s.setTune v x).outRight = s.outRight := rfl
@[simp] theorem State.setTune_fnum0 (v : Nat) (x : BitVec 16) :
    (s.setTune v x).fnum0 = s.fnum0 := rfl
@[simp] theorem State.setTune_fnum1 (v : Nat) (x : BitVec 16) :
    (s.setTune v x).fnum1 = s.fnum1 := rfl
@[simp] theorem State.setTune_fnum2 (v : Nat) (x : BitVec 16) :
    (s.setTune v x).fnum2 = s.fnum2 := rfl
@[simp] theorem State.setTune_env0 (v : Nat) (x : BitVec 16) :
    (s.setTune v x).env0 = s.env0 := rfl
@[simp] theorem State.setTune_env1 (v : Nat) (x : BitVec 16) :
    (s.setTune v x).env1 = s.env1 := rfl
@[simp] theorem State.setTune_waveLevel (v : Nat) (x : BitVec 16) :
    (s.setTune v x).waveLevel = s.waveLevel := rfl
@[simp] theorem State.setTune_len0 (v : Nat) (x : BitVec 16) :
    (s.setTune v x).len0 = s.len0 := rfl
@[simp] theorem State.setTune_len1 (v : Nat) (x : BitVec 16) :
    (s.setTune v x).len1 = s.len1 := rfl
@[simp] theorem State.setTune_len2 (v : Nat) (x : BitVec 16) :
    (s.setTune v x).len2 = s.len2 := rfl
@[simp] theorem State.setTune_sweep (v : Nat) (x : BitVec 16) :
    (s.setTune v x).sweep = s.sweep := rfl
@[simp] theorem State.setTune_frameStep (v : Nat) (x : BitVec 16) :
    (s.setTune v x).frameStep = s.frameStep := rfl
@[simp] theorem State.setTune_pending (v : Nat) (x : BitVec 16) :
    (s.setTune v x).pending = s.pending := rfl
@[simp] theorem State.setTune_response (v : Nat) (x : BitVec 16) :
    (s.setTune v x).response = s.response := rfl

@[simp] theorem State.setWaveSelect_cfg (v : Nat) (x : Byte) :
    (s.setWaveSelect v x).cfg = s.cfg := rfl
@[simp] theorem State.setWaveSelect_voices (v : Nat) (x : Byte) :
    (s.setWaveSelect v x).voices = s.voices.modify v (fun o => { o with waveSelect := x }) := rfl
@[simp] theorem State.setWaveSelect_wavetable (v : Nat) (x : Byte) :
    (s.setWaveSelect v x).wavetable = s.wavetable := rfl
@[simp] theorem State.setWaveSelect_leftSum (v : Nat) (x : Byte) :
    (s.setWaveSelect v x).leftSum = s.leftSum := rfl
@[simp] theorem State.setWaveSelect_rightSum (v : Nat) (x : Byte) :
    (s.setWaveSelect v x).rightSum = s.rightSum := rfl
@[simp] theorem State.setWaveSelect_rr (v : Nat) (x : Byte) :
    (s.setWaveSelect v x).rr = s.rr := rfl
@[simp] theorem State.setWaveSelect_div (v : Nat) (x : Byte) :
    (s.setWaveSelect v x).div = s.div := rfl
@[simp] theorem State.setWaveSelect_outLeft (v : Nat) (x : Byte) :
    (s.setWaveSelect v x).outLeft = s.outLeft := rfl
@[simp] theorem State.setWaveSelect_outRight (v : Nat) (x : Byte) :
    (s.setWaveSelect v x).outRight = s.outRight := rfl
@[simp] theorem State.setWaveSelect_fnum0 (v : Nat) (x : Byte) :
    (s.setWaveSelect v x).fnum0 = s.fnum0 := rfl
@[simp] theorem State.setWaveSelect_fnum1 (v : Nat) (x : Byte) :
    (s.setWaveSelect v x).fnum1 = s.fnum1 := rfl
@[simp] theorem State.setWaveSelect_fnum2 (v : Nat) (x : Byte) :
    (s.setWaveSelect v x).fnum2 = s.fnum2 := rfl
@[simp] theorem State.setWaveSelect_env0 (v : Nat) (x : Byte) :
    (s.setWaveSelect v x).env0 = s.env0 := rfl
@[simp] theorem State.setWaveSelect_env1 (v : Nat) (x : Byte) :
    (s.setWaveSelect v x).env1 = s.env1 := rfl
@[simp] theorem State.setWaveSelect_waveLevel (v : Nat) (x : Byte) :
    (s.setWaveSelect v x).waveLevel = s.waveLevel := rfl
@[simp] theorem State.setWaveSelect_len0 (v : Nat) (x : Byte) :
    (s.setWaveSelect v x).len0 = s.len0 := rfl
@[simp] theorem State.setWaveSelect_len1 (v : Nat) (x : Byte) :
    (s.setWaveSelect v x).len1 = s.len1 := rfl
@[simp] theorem State.setWaveSelect_len2 (v : Nat) (x : Byte) :
    (s.setWaveSelect v x).len2 = s.len2 := rfl
@[simp] theorem State.setWaveSelect_sweep (v : Nat) (x : Byte) :
    (s.setWaveSelect v x).sweep = s.sweep := rfl
@[simp] theorem State.setWaveSelect_frameStep (v : Nat) (x : Byte) :
    (s.setWaveSelect v x).frameStep = s.frameStep := rfl
@[simp] theorem State.setWaveSelect_pending (v : Nat) (x : Byte) :
    (s.setWaveSelect v x).pending = s.pending := rfl
@[simp] theorem State.setWaveSelect_response (v : Nat) (x : Byte) :
    (s.setWaveSelect v x).response = s.response := rfl

@[simp] theorem State.setWaveMask_cfg (v : Nat) (x : Byte) :
    (s.setWaveMask v x).cfg = s.cfg := rfl
@[simp] theorem State.setWaveMask_voices (v : Nat) (x : Byte) :
    (s.setWaveMask v x).voices = s.voices.modify v (fun o => { o with waveMask := x }) := rfl
@[simp] theorem State.setWaveMask_wavetable (v : Nat) (x : Byte) :
    (s.setWaveMask v x).wavetable = s.wavetable := rfl
@[simp] theorem State.setWaveMask_leftSum (v : Nat) (x : Byte) :
    (s.setWaveMask v x).leftSum = s.leftSum := rfl
@[simp] theorem State.setWaveMask_rightSum (v : Nat) (x : Byte) :
    (s.setWaveMask v x).rightSum = s.rightSum := rfl
@[simp] theorem State.setWaveMask_rr (v : Nat) (x : Byte) :
    (s.setWaveMask v x).rr = s.rr := rfl
@[simp] theorem State.setWaveMask_div (v : Nat) (x : Byte) :
    (s.setWaveMask v x).div = s.div := rfl
@[simp] theorem State.setWaveMask_outLeft (v : Nat) (x : Byte) :
    (s.setWaveMask v x).outLeft = s.outLeft := rfl
@[simp] theorem State.setWaveMask_outRight (v : Nat) (x : Byte) :
    (s.setWaveMask v x).outRight = s.outRight := rfl
@[simp] theorem State.setWaveMask_fnum0 (v : Nat) (x : Byte) :
    (s.setWaveMask v x).fnum0 = s.fnum0 := rfl
@[simp] theorem State.setWaveMask_fnum1 (v : Nat) (x : Byte) :
    (s.setWaveMask v x).fnum1 = s.fnum1 := rfl
@[simp] theorem State.setWaveMask_fnum2 (v : Nat) (x : Byte) :
    (s.setWaveMask v x).fnum2 = s.fnum2 := rfl
@[simp] theorem State.setWaveMask_env0 (v : Nat) (x : Byte) :
    (s.setWaveMask v x).env0 = s.env0 := rfl
@[simp] theorem State.setWaveMask_env1 (v : Nat) (x : Byte) :
    (s.setWaveMask v x).env1 = s.env1 := rfl
@[simp] theorem State.setWaveMask_waveLevel (v : Nat) (x : Byte) :
    (s.setWaveMask v x).waveLevel = s.waveLevel := rfl
@[simp] theorem State.setWaveMask_len0 (v : Nat) (x : Byte) :
    (s.setWaveMask v x).len0 = s.len0 := rfl
@[simp] theorem State.setWaveMask_len1 (v : Nat) (x : Byte) :
    (s.setWaveMask v x).len1 = s.len1 := rfl
@[simp] theorem State.setWaveMask_len2 (v : Nat) (x : Byte) :
    (s.setWaveMask v x).len2 = s.len2 := rfl
@[simp] theorem State.setWaveMask_sweep (v : Nat) (x : Byte) :
    (s.setWaveMask v x).sweep = s.sweep := rfl
@[simp] theorem State.setWaveMask_frameStep (v : Nat) (x : Byte) :
    (s.setWaveMask v x).frameStep = s.frameStep := rfl
@[simp] theorem State.setWaveMask_pending (v : Nat) (x : Byte) :
    (s.setWaveMask v x).pending = s.pending := rfl
@[simp] theorem State.setWaveMask_response (v : Nat) (x : Byte) :
    (s.setWaveMask v x).response = s.response := rfl

@[simp] theorem State.setAmplitudeLeft_cfg (v : Nat) (x : Byte) :
    (s.setAmplitudeLeft v x).cfg = s.cfg := rfl
@[simp] theorem State.setAmplitudeLeft_voices (v : Nat) (x : Byte) :
    (s.setAmplitudeLeft v x).voices = s.voices.modify v (fun o => { o with gain := o.gain.setLeft x }) := rfl
@[simp] theorem State.setAmplitudeLeft_wavetable (v : Nat) (x : Byte) :
    (s.setAmplitudeLeft v x).wavetable = s.wavetable := rfl
@[simp] theorem State.setAmplitudeLeft_leftSum (v : Nat) (x : Byte) :
    (s.setAmplitudeLeft v x).leftSum = s.leftSum := rfl
@[simp] theorem State.setAmplitudeLeft_rightSum (v : Nat) (x : Byte) :
    (s.setAmplitudeLeft v x).rightSum = s.rightSum := rfl
@[simp] theorem State.setAmplitudeLeft_rr (v : Nat) (x : Byte) :
    (s.setAmplitudeLeft v x).rr = s.rr := rfl
@[simp] theorem State.setAmplitudeLeft_div (v : Nat) (x : Byte) :
    (s.setAmplitudeLeft v x).div = s.div := rfl
@[simp] theorem State.setAmplitudeLeft_outLeft (v : Nat) (x : Byte) :
    (s.setAmplitudeLeft v x).outLeft = s.outLeft := rfl
@[simp] theorem State.setAmplitudeLeft_outRight (v : Nat) (x : Byte) :
    (s.setAmplitudeLeft v x).outRight = s.outRight := rfl
@[simp] theorem State.setAmplitudeLeft_fnum0 (v : Nat) (x : Byte) :
    (s.setAmplitudeLeft v x).fnum0 = s.fnum0 := rfl
@[simp] theorem State.setAmplitudeLeft_fnum1 (v : Nat) (x : Byte) :
    (s.setAmplitudeLeft v x).fnum1 = s.fnum1 := rfl
@[simp] theorem State.setAmplitudeLeft_fnum2 (v : Nat) (x : Byte) :
    (s.setAmplitudeLeft v x).fnum2 = s.fnum2 := rfl
@[simp] theorem State.setAmplitudeLeft_env0 (v : Nat) (x : Byte) :
    (s.setAmplitudeLeft v x).env0 = s.env0 := rfl
@[simp] theorem State.setAmplitudeLeft_env1 (v : Nat) (x : Byte) :
    (s.setAmplitudeLeft v x).env1 = s.env1 := rfl
@[simp] theorem State.setAmplitudeLeft_waveLevel (v : Nat) (x : Byte) :
    (s.setAmplitudeLeft v x).waveLevel = s.waveLevel := rfl
@[simp] theorem State.setAmplitudeLeft_len0 (v : Nat) (x : Byte) :
    (s.setAmplitudeLeft v x).len0 = s.len0 := rfl
@[simp] theorem State.setAmplitudeLeft_len1 (v : Nat) (x : Byte) :
    (s.setAmplitudeLeft v x).len1 = s.len1 := rfl
@[simp] theorem State.setAmplitudeLeft_len2 (v : Nat) (x : Byte) :
    (s.setAmplitudeLeft v x).len2 = s.len2 := rfl
@[simp] theorem State.setAmplitudeLeft_sweep (v : Nat) (x : Byte) :
    (s.setAmplitudeLeft v x).sweep = s.sweep := rfl
@[simp] theorem State.setAmplitudeLeft_frameStep (v : Nat) (x : Byte) :
    (s.setAmplitudeLeft v x).frameStep = s.frameStep := rfl
@[simp] theorem State.setAmplitudeLeft_pending (v : Nat) (x : Byte) :
    (s.setAmplitudeLeft v x).pending = s.pending := rfl
@[simp] theorem State.setAmplitudeLeft_response (v : Nat) (x : Byte) :
    (s.setAmplitudeLeft v x).response = s.response := rfl

@[simp] theorem State.setAmplitudeRight_cfg (v : Nat) (x : Byte) :
    (s.setAmplitudeRight v x).cfg = s.cfg := rfl
@[simp] theorem State.setAmplitudeRight_voices (v : Nat) (x : Byte) :
    (s.setAmplitudeRight v x).voices = s.voices.modify v (fun o => { o with gain := o.gain.setRight x }) := rfl
@[simp] theorem State.setAmplitudeRight_wavetable (v : Nat) (x : Byte) :
    (s.setAmplitudeRight v x).wavetable = s.wavetable := rfl
@[simp] theorem State.setAmplitudeRight_leftSum (v : Nat) (x : Byte) :
    (s.setAmplitudeRight v x).leftSum = s.leftSum := rfl
@[simp] theorem State.setAmplitudeRight_rightSum (v : Nat) (x : Byte) :
    (s.setAmplitudeRight v x).rightSum = s.rightSum := rfl
@[simp] theorem State.setAmplitudeRight_rr (v : Nat) (x : Byte) :
    (s.setAmplitudeRight v x).rr = s.rr := rfl
@[simp] theorem State.setAmplitudeRight_div (v : Nat) (x : Byte) :
    (s.setAmplitudeRight v x).div = s.div := rfl
@[simp] theorem State.setAmplitudeRight_outLeft (v : Nat) (x : Byte) :
    (s.setAmplitudeRight v x).outLeft = s.outLeft := rfl
@[simp] theorem State.setAmplitudeRight_outRight (v : Nat) (x : Byte) :
    (s.setAmplitudeRight v x).outRight = s.outRight := rfl
@[simp] theorem State.setAmplitudeRight_fnum0 (v : Nat) (x : Byte) :
    (s.setAmplitudeRight v x).fnum0 = s.fnum0 := rfl
@[simp] theorem State.setAmplitudeRight_fnum1 (v : Nat) (x : Byte) :
    (s.setAmplitudeRight v x).fnum1 = s.fnum1 := rfl
@[simp] theorem State.setAmplitudeRight_fnum2 (v : Nat) (x : Byte) :
    (s.setAmplitudeRight v x).fnum2 = s.fnum2 := rfl
@[simp] theorem State.setAmplitudeRight_env0 (v : Nat) (x : Byte) :
    (s.setAmplitudeRight v x).env0 = s.env0 := rfl
@[simp] theorem State.setAmplitudeRight_env1 (v : Nat) (x : Byte) :
    (s.setAmplitudeRight v x).env1 = s.env1 := rfl
@[simp] theorem State.setAmplitudeRight_waveLevel (v : Nat) (x : Byte) :
    (s.setAmplitudeRight v x).waveLevel = s.waveLevel := rfl
@[simp] theorem State.setAmplitudeRight_len0 (v : Nat) (x : Byte) :
    (s.setAmplitudeRight v x).len0 = s.len0 := rfl
@[simp] theorem State.setAmplitudeRight_len1 (v : Nat) (x : Byte) :
    (s.setAmplitudeRight v x).len1 = s.len1 := rfl
@[simp] theorem State.setAmplitudeRight_len2 (v : Nat) (x : Byte) :
    (s.setAmplitudeRight v x).len2 = s.len2 := rfl
@[simp] theorem State.setAmplitudeRight_sweep (v : Nat) (x : Byte) :
    (s.setAmplitudeRight v x).sweep = s.sweep := rfl
@[simp] theorem State.setAmplitudeRight_frameStep (v : Nat) (x : Byte) :
    (s.setAmplitudeRight v x).frameStep = s.frameStep := rfl
@[simp] theorem State.setAmplitudeRight_pending (v : Nat) (x : Byte) :
    (s.setAmplitudeRight v x).pending = s.pending := rfl
@[simp] theorem State.setAmplitudeRight_response (v : Nat) (x : Byte) :
    (s.setAmplitudeRight v x).response = s.response := rfl

@[simp] theorem State.writeByte_cfg (a : Nat) (x : Byte) :
    (s.writeByte a x).cfg = s.cfg := rfl
@[simp] theorem State.writeByte_voices (a : Nat) (x : Byte) :
    (s.writeByte a x).voices = s.voices := rfl
@[simp] theorem State.writeByte_wavetable (a : Nat) (x : Byte) :
    (s.writeByte a x).wavetable = memWrite s.cfg s.wavetable a x := rfl
@[simp] theorem State.writeByte_leftSum (a : Nat) (x : Byte) :
    (s.writeByte a x).leftSum = s.leftSum := rfl
@[simp] theorem State.writeByte_rightSum (a : Nat) (x : Byte) :
    (s.writeByte a x).rightSum = s.rightSum := rfl
@[simp] theorem State.writeByte_rr (a : Nat) (x : Byte) :
    (s.writeByte a x).rr = s.rr := rfl
@[simp] theorem State.writeByte_div (a : Nat) (x : Byte) :
    (s.writeByte a x).div = s.div := rfl
@[simp] theorem State.writeByte_outLeft (a : Nat) (x : Byte) :
    (s.writeByte a x).outLeft = s.outLeft := rfl
@[simp] theorem State.writeByte_outRight (a : Nat) (x : Byte) :
    (s.writeByte a x).outRight = s.outRight := rfl
@[simp] theorem State.writeByte_fnum0 (a : Nat) (x : Byte) :
    (s.writeByte a x).fnum0 = s.fnum0 := rfl
@[simp] theorem State.writeByte_fnum1 (a : Nat) (x : Byte) :
    (s.writeByte a x).fnum1 = s.fnum1 := rfl
@[simp] theorem State.writeByte_fnum2 (a : Nat) (x : Byte) :
    (s.writeByte a x).fnum2 = s.fnum2 := rfl
@[simp] theorem State.writeByte_env0 (a : Nat) (x : Byte) :
    (s.writeByte a x).env0 = s.env0 := rfl
@[simp] theorem State.writeByte_env1 (a : Nat) (x : Byte) :
    (s.writeByte a x).env1 = s.env1 := rfl
@[simp] theorem State.writeByte_waveLevel (a : Nat) (x : Byte) :
    (s.writeByte a x).waveLevel = s.waveLevel := rfl
@[simp] theorem State.writeByte_len0 (a : Nat) (x : Byte) :
    (s.writeByte a x).len0 = s.len0 := rfl
@[simp] theorem State.writeByte_len1 (a : Nat) (x : Byte) :
    (s.writeByte a x).len1 = s.len1 := rfl
@[simp] theorem State.writeByte_len2 (a : Nat) (x : Byte) :
    (s.writeByte a x).len2 = s.len2 := rfl
@[simp] theorem State.writeByte_sweep (a : Nat) (x : Byte) :
    (s.writeByte a x).sweep = s.sweep := rfl
@[simp] theorem State.writeByte_frameStep (a : Nat) (x : Byte) :
    (s.writeByte a x).frameStep = s.frameStep := rfl
@[simp] theorem State.writeByte_pending (a : Nat) (x : Byte) :
    (s.writeByte a x).pending = s.pending := rfl
@[simp] theorem State.writeByte_response (a : Nat) (x : Byte) :
    (s.writeByte a x).response = s.response := rfl

@[simp] theorem State.fillBytes_cfg (b : Nat) (g : Nat → Byte) (n : Nat) :
    (s.fillBytes b g n).cfg = s.cfg := rfl
@[simp] theorem State.fillBytes_voices (b : Nat) (g : Nat → Byte) (n : Nat) :
    (s.fillBytes b g n).voices = s.voices := rfl
@[simp] theorem State.fillBytes_wavetable (b : Nat) (g : Nat → Byte) (n : Nat) :
    (s.fillBytes b g n).wavetable = memFill s.cfg s.wavetable b g n := rfl
@[simp] theorem State.fillBytes_leftSum (b : Nat) (g : Nat → Byte) (n : Nat) :
    (s.fillBytes b g n).leftSum = s.leftSum := rfl
@[simp] theorem State.fillBytes_rightSum (b : Nat) (g : Nat → Byte) (n : Nat) :
    (s.fillBytes b g n).rightSum = s.rightSum := rfl
@[simp] theorem State.fillBytes_rr (b : Nat) (g : Nat → Byte) (n : Nat) :
    (s.fillBytes b g n).rr = s.rr := rfl
@[simp] theorem State.fillBytes_div (b : Nat) (g : Nat → Byte) (n : Nat) :
    (s.fillBytes b g n).div = s.div := rfl
@[simp] theorem State.fillBytes_outLeft (b : Nat) (g : Nat → Byte) (n : Nat) :
    (s.fillBytes b g n).outLeft = s.outLeft := rfl
@[simp] theorem State.fillBytes_outRight (b : Nat) (g : Nat → Byte) (n : Nat) :
    (s.fillBytes b g n).outRight = s.outRight := rfl
@[simp] theorem State.fillBytes_fnum0 (b : Nat) (g : Nat → Byte) (n : Nat) :
    (s.fillBytes b g n).fnum0 = s.fnum0 := rfl
@[simp] theorem State.fillBytes_fnum1 (b : Nat) (g : Nat → Byte) (n : Nat) :
    (s.fillBytes b g n).fnum1 = s.fnum1 := rfl
@[simp] theorem State.fillBytes_fnum2 (b : Nat) (g : Nat → Byte) (n : Nat) :
    (s.fillBytes b g n).fnum2 = s.fnum2 := rfl
@[simp] theorem State.fillBytes_env0 (b : Nat) (g : Nat → Byte) (n : Nat) :
    (s.fillBytes b g n).env0 = s.env0 := rfl
@[simp] theorem State.fillBytes_env1 (b : Nat) (g : Nat → Byte) (n : Nat) :
    (s.fillBytes b g n).env1 = s.env1 := rfl
@[simp] theorem State.fillBytes_waveLevel (b : Nat) (g : Nat → Byte) (n : Nat) :
    (s.fillBytes b g n).waveLevel = s.waveLevel := rfl
@[simp] theorem State.fillBytes_len0 (b : Nat) (g : Nat → Byte) (n : Nat) :
    (s.fillBytes b g n).len0 = s.len0 := rfl
@[simp] theorem State.fillBytes_len1 (b : Nat) (g : Nat → Byte) (n : Nat) :
    (s.fillBytes b g n).len1 = s.len1 := rfl
@[simp] theorem State.fillBytes_len2 (b : Nat) (g : Nat → Byte) (n : Nat) :
    (s.fillBytes b g n).len2 = s.len2 := rfl
@[simp] theorem State.fillBytes_sweep (b : Nat) (g : Nat → Byte) (n : Nat) :
    (s.fillBytes b g n).sweep = s.sweep := rfl
@[simp] theorem State.fillBytes_frameStep (b : Nat) (g : Nat → Byte) (n : Nat) :
    (s.fillBytes b g n).frameStep = s.frameStep := rfl
@[simp] theorem State.fillBytes_pending (b : Nat) (g : Nat → Byte) (n : Nat) :
    (s.fillBytes b g n).pending = s.pending := rfl
@[simp] theorem State.fillBytes_response (b : Nat) (g : Nat → Byte) (n : Nat) :
    (s.fillBytes b g n).response = s.response := rfl

@[simp] theorem State.setSweep_cfg (w : Sweep) :
    (s.setSweep w).cfg = s.cfg := rfl
@[simp] theorem State.setSweep_voices (w : Sweep) :
    (s.setSweep w).voices = s.voices := rfl
@[simp] theorem State.setSweep_wavetable (w : Sweep) :
    (s.setSweep w).wavetable = s.wavetable := rfl
@[simp] theorem State.setSweep_leftSum (w : Sweep) :
    (s.setSweep w).leftSum = s.leftSum := rfl
@[simp] theorem State.setSweep_rightSum (w : Sweep) :
    (s.setSweep w).rightSum = s.rightSum := rfl
@[simp] theorem State.setSweep_rr (w : Sweep) :
    (s.setSweep w).rr = s.rr := rfl
@[simp] theorem State.setSweep_div (w : Sweep) :
    (s.setSweep w).div = s.div := rfl
@[simp] theorem State.setSweep_outLeft (w : Sweep) :
    (s.setSweep w).outLeft = s.outLeft := rfl
@[simp] theorem State.setSweep_outRight (w : Sweep) :
    (s.setSweep w).outRight = s.outRight := rfl
@[simp] theorem State.setSweep_fnum0 (w : Sweep) :
    (s.setSweep w).fnum0 = s.fnum0 := rfl
@[simp] theorem State.setSweep_fnum1 (w : Sweep) :
    (s.setSweep w).fnum1 = s.fnum1 := rfl
@[simp] theorem State.setSweep_fnum2 (w : Sweep) :
    (s.setSweep w).fnum2 = s.fnum2 := rfl
@[simp] theorem State.setSweep_env0 (w : Sweep) :
    (s.setSweep w).env0 = s.env0 := rfl
@[simp] theorem State.setSweep_env1 (w : Sweep) :
    (s.setSweep w).env1 = s.env1 := rfl
@[simp] theorem State.setSweep_waveLevel (w : Sweep) :
    (s.setSweep w).waveLevel = s.waveLevel := rfl
@[simp] theorem State.setSweep_len0 (w : Sweep) :
    (s.setSweep w).len0 = s.len0 := rfl
@[simp] theorem State.setSweep_len1 (w : Sweep) :
    (s.setSweep w).len1 = s.len1 := rfl
@[simp] theorem State.setSweep_len2 (w : Sweep) :
    (s.setSweep w).len2 = s.len2 := rfl
@[simp] theorem State.setSweep_sweep (w : Sweep) :
    (s.setSweep w).sweep = w := rfl
@[simp] theorem State.setSweep_frameStep (w : Sweep) :
    (s.setSweep w).frameStep = s.frameStep := rfl
@[simp] theorem State.setSweep_pending (w : Sweep) :
    (s.setSweep w).pending = s.pending := rfl
@[simp] theorem State.setSweep_response (w : Sweep) :
    (s.setSweep w).response = s.response := rfl

@[simp] theorem State.setWaveLevel_cfg (x : Byte) :
    (s.setWaveLevel x).cfg = s.cfg := rfl
@[simp] theorem State.setWaveLevel_voices (x : Byte) :
    (s.setWaveLevel x).voices = s.voices := rfl
@[simp] theorem State.setWaveLevel_wavetable (x : Byte) :
    (s.setWaveLevel x).wavetable = s.wavetable := rfl
@[simp] theorem State.setWaveLevel_leftSum (x : Byte) :
    (s.setWaveLevel x).leftSum = s.leftSum := rfl
@[simp] theorem State.setWaveLevel_rightSum (x : Byte) :
    (s.setWaveLevel x).rightSum = s.rightSum := rfl
@[simp] theorem State.setWaveLevel_rr (x : Byte) :
    (s.setWaveLevel x).rr = s.rr := rfl
@[simp] theorem State.setWaveLevel_div (x : Byte) :
    (s.setWaveLevel x).div = s.div := rfl
@[simp] theorem State.setWaveLevel_outLeft (x : Byte) :
    (s.setWaveLevel x).outLeft = s.outLeft := rfl
@[simp] theorem State.setWaveLevel_outRight (x : Byte) :
    (s.setWaveLevel x).outRight = s.outRight := rfl
@[simp] theorem State.setWaveLevel_fnum0 (x : Byte) :
    (s.setWaveLevel x).fnum0 = s.fnum0 := rfl
@[simp] theorem State.setWaveLevel_fnum1 (x : Byte) :
    (s.setWaveLevel x).fnum1 = s.fnum1 := rfl
@[simp] theorem State.setWaveLevel_fnum2 (x : Byte) :
    (s.setWaveLevel x).fnum2 = s.fnum2 := rfl
@[simp] theorem State.setWaveLevel_env0 (x : Byte) :
    (s.setWaveLevel x).env0 = s.env0 := rfl
@[simp] theorem State.setWaveLevel_env1 (x : Byte) :
    (s.setWaveLevel x).env1 = s.env1 := rfl
@[simp] theorem State.setWaveLevel_waveLevel (x : Byte) :
    (s.setWaveLevel x).waveLevel = x := rfl
@[simp] theorem State.setWaveLevel_len0 (x : Byte) :
    (s.setWaveLevel x).len0 = s.len0 := rfl
@[simp] theorem State.setWaveLevel_len1 (x : Byte) :
    (s.setWaveLevel x).len1 = s.len1 := rfl
@[simp] theorem State.setWaveLevel_len2 (x : Byte) :
    (s.setWaveLevel x).len2 = s.len2 := rfl
@[simp] theorem State.setWaveLevel_sweep (x : Byte) :
    (s.setWaveLevel x).sweep = s.sweep := rfl
@[simp] theorem State.setWaveLevel_frameStep (x : Byte) :
    (s.setWaveLevel x).frameStep = s.frameStep := rfl
@[simp] theorem State.setWaveLevel_pending (x : Byte) :
    (s.setWaveLevel x).pending = s.pending := rfl
@[simp] theorem State.setWaveLevel_response (x : Byte) :
    (s.setWaveLevel x).response = s.response := rfl

@[simp] theorem State.addLeft_cfg (x : BitVec 20) :
    (s.addLeft x).cfg = s.cfg := rfl
@[simp] theorem State.addLeft_voices (x : BitVec 20) :
    (s.addLeft x).voices = s.voices := rfl
@[simp] theorem State.addLeft_wavetable (x : BitVec 20) :
    (s.addLeft x).wavetable = s.wavetable := rfl
@[simp] theorem State.addLeft_leftSum (x : BitVec 20) :
    (s.addLeft x).leftSum = s.leftSum + x := rfl
@[simp] theorem State.addLeft_rightSum (x : BitVec 20) :
    (s.addLeft x).rightSum = s.rightSum := rfl
@[simp] theorem State.addLeft_rr (x : BitVec 20) :
    (s.addLeft x).rr = s.rr := rfl
@[simp] theorem State.addLeft_div (x : BitVec 20) :
    (s.addLeft x).div = s.div := rfl
@[simp] theorem State.addLeft_outLeft (x : BitVec 20) :
    (s.addLeft x).outLeft = s.outLeft := rfl
@[simp] theorem State.addLeft_outRight (x : BitVec 20) :
    (s.addLeft x).outRight = s.outRight := rfl
@[simp] theorem State.addLeft_fnum0 (x : BitVec 20) :
    (s.addLeft x).fnum0 = s.fnum0 := rfl
@[simp] theorem State.addLeft_fnum1 (x : BitVec 20) :
    (s.addLeft x).fnum1 = s.fnum1 := rfl
@[simp] theorem State.addLeft_fnum2 (x : BitVec 20) :
    (s.addLeft x).fnum2 = s.fnum2 := rfl
@[simp] theorem State.addLeft_env0 (x : BitVec 20) :
    (s.addLeft x).env0 = s.env0 := rfl
@[simp] theorem State.addLeft_env1 (x : BitVec 20) :
    (s.addLeft x).env1 = s.env1 := rfl
@[simp] theorem State.addLeft_waveLevel (x : BitVec 20) :
    (s.addLeft x).waveLevel = s.waveLevel := rfl
@[simp] theorem State.addLeft_len0 (x : BitVec 20) :
    (s.addLeft x).len0 = s.len0 := rfl
@[simp] theorem State.addLeft_len1 (x : BitVec 20) :
    (s.addLeft x).len1 = s.len1 := rfl
@[simp] theorem State.addLeft_len2 (x : BitVec 20) :
    (s.addLeft x).len2 = s.len2 := rfl
@[simp] theorem State.addLeft_sweep (x : BitVec 20) :
    (s.addLeft x).sweep = s.sweep := rfl
@[simp] theorem State.addLeft_frameStep (x : BitVec 20) :
    (s.addLeft x).frameStep = s.frameStep := rfl
@[simp] theorem State.addLeft_pending (x : BitVec 20) :
    (s.addLeft x).pending = s.pending := rfl
@[simp] theorem State.addLeft_response (x : BitVec 20) :
    (s.addLeft x).response = s.response := rfl

@[simp] theorem State.addRight_cfg (x : BitVec 20) :
    (s.addRight x).cfg = s.cfg := rfl
@[simp] theorem State.addRight_voices (x : BitVec 20) :
    (s.addRight x).voices = s.voices := rfl
@[simp] theorem State.addRight_wavetable (x : BitVec 20) :
    (s.addRight x).wavetable = s.wavetable := rfl
@[simp] theorem State.addRight_leftSum (x : BitVec 20) :
    (s.addRight x).leftSum = s.leftSum := rfl
@[simp] theorem State.addRight_rightSum (x : BitVec 20) :
    (s.addRight x).rightSum = s.rightSum + x := rfl
@[simp] theorem State.addRight_rr (x : BitVec 20) :
    (s.addRight x).rr = s.rr := rfl
@[simp] theorem State.addRight_div (x : BitVec 20) :
    (s.addRight x).div = s.div := rfl
@[simp] theorem State.addRight_outLeft (x : BitVec 20) :
    (s.addRight x).outLeft = s.outLeft := rfl
@[simp] theorem State.addRight_outRight (x : BitVec 20) :
    (s.addRight x).outRight = s.outRight := rfl
@[simp] theorem State.addRight_fnum0 (x : BitVec 20) :
    (s.addRight x).fnum0 = s.fnum0 := rfl
@[simp] theorem State.addRight_fnum1 (x : BitVec 20) :
    (s.addRight x).fnum1 = s.fnum1 := rfl
@[simp] theorem State.addRight_fnum2 (x : BitVec 20) :
    (s.addRight x).fnum2 = s.fnum2 := rfl
@[simp] theorem State.addRight_env0 (x : BitVec 20) :
    (s.addRight x).env0 = s.env0 := rfl
@[simp] theorem State.addRight_env1 (x : BitVec 20) :
    (s.addRight x).env1 = s.env1 := rfl
@[simp] theorem State.addRight_waveLevel (x : BitVec 20) :
    (s.addRight x).waveLevel = s.waveLevel := rfl
@[simp] theorem State.addRight_len0 (x : BitVec 20) :
    (s.addRight x).len0 = s.len0 := rfl
@[simp] theorem State.addRight_len1 (x : BitVec 20) :
    (s.addRight x).len1 = s.len1 := rfl
@[simp] theorem State.addRight_len2 (x : BitVec 20) :
    (s.addRight x).len2 = s.len2 := rfl
@[simp] theorem State.addRight_sweep (x : BitVec 20) :
    (s.addRight x).sweep = s.sweep := rfl
@[simp] theorem State.addRight_frameStep (x : BitVec 20) :
    (s.addRight x).frameStep = s.frameStep := rfl
@[simp] theorem State.addRight_pending (x : BitVec 20) :
    (s.addRight x).pending = s.pending := rfl
@[simp] theorem State.addRight_response (x : BitVec 20) :
    (s.addRight x).response = s.response := rfl

@[simp] theorem State.completeRound_cfg :
    (s.completeRound).cfg = s.cfg := rfl
@[simp] theorem State.completeRound_voices :
    (s.completeRound).voices = s.voices := rfl
@[simp] theorem State.completeRound_wavetable :
    (s.completeRound).wavetable = s.wavetable := rfl
@[simp] theorem State.completeRound_leftSum :
    (s.completeRound).leftSum = 0 := rfl
@[simp] theorem State.completeRound_rightSum :
    (s.completeRound).rightSum = 0 := rfl
@[simp] theorem State.completeRound_rr :
    (s.completeRound).rr = 0 := rfl
@[simp] theorem State.completeRound_div :
    (s.completeRound).div = s.div := rfl
@[simp] theorem State.completeRound_outLeft :
    (s.completeRound).outLeft = s.leftSum.extractLsb' 8 8 := rfl
@[simp] theorem State.completeRound_outRight :
    (s.completeRound).outRight = if s.cfg.stereoMode = .disabled then s.outRight else s.rightSum.extractLsb' 8 8 := rfl
@[simp] theorem State.completeRound_fnum0 :
    (s.completeRound).fnum0 = s.fnum0 := rfl
@[simp] theorem State.completeRound_fnum1 :
    (s.completeRound).fnum1 = s.fnum1 := rfl
@[simp] theorem State.completeRound_fnum2 :
    (s.completeRound).fnum2 = s.fnum2 := rfl
@[simp] theorem State.completeRound_env0 :
    (s.completeRound).env0 = s.env0 := rfl
@[simp] theorem State.completeRound_env1 :
    (s.completeRound).env1 = s.env1 := rfl
@[simp] theorem State.completeRound_waveLevel :
    (s.completeRound).waveLevel = s.waveLevel := rfl
@[simp] theorem State.completeRound_len0 :
    (s.completeRound).len0 = s.len0 := rfl
@[simp] theorem State.completeRound_len1 :
    (s.completeRound).len1 = s.len1 := rfl
@[simp] theorem State.completeRound_len2 :
    (s.completeRound).len2 = s.len2 := rfl
@[simp] theorem State.completeRound_sweep :
    (s.completeRound).sweep = s.sweep := rfl
@[simp] theorem State.completeRound_frameStep :
    (s.completeRound).frameStep = s.frameStep := rfl
@[simp] theorem State.completeRound_pending :
    (s.completeRound).pending = s.pending := rfl
@[simp] theorem State.completeRound_response :
    (s.completeRound).response = s.response := rfl

@[simp] theorem State.advanceStep_cfg :
    (s.advanceStep).cfg = s.cfg := rfl
@[simp] theorem State.advanceStep_voices :
    (s.advanceStep).voices = s.voices := rfl
@[simp] theorem State.advanceStep_wavetable :
    (s.advanceStep).wavetable = s.wavetable := rfl
@[simp] theorem State.advanceStep_leftSum :
    (s.advanceStep).leftSum = s.leftSum := rfl
@[simp] theorem State.advanceStep_rightSum :
    (s.advanceStep).rightSum = s.rightSum := rfl
@[simp] theorem State.advanceStep_rr :
    (s.advanceStep).rr = s.rr := rfl
@[simp] theorem State.advanceStep_div :
    (s.advanceStep).div = s.div := rfl
@[simp] theorem State.advanceStep_outLeft :
    (s.advanceStep).outLeft = s.outLeft := rfl
@[simp] theorem State.advanceStep_outRight :
    (s.advanceStep).outRight = s.outRight := rfl
@[simp] theorem State.advanceStep_fnum0 :
    (s.advanceStep).fnum0 = s.fnum0 := rfl
@[simp] theorem State.advanceStep_fnum1 :
    (s.advanceStep).fnum1 = s.fnum1 := rfl
@[simp] theorem State.advanceStep_fnum2 :
    (s.advanceStep).fnum2 = s.fnum2 := rfl
@[simp] theorem State.advanceStep_env0 :
    (s.advanceStep).env0 = s.env0 := rfl
@[simp] theorem State.advanceStep_env1 :
    (s.advanceStep).env1 = s.env1 := rfl
@[simp] theorem State.advanceStep_waveLevel :
    (s.advanceStep).waveLevel = s.waveLevel := rfl
@[simp] theorem State.advanceStep_len0 :
    (s.advanceStep).len0 = s.len0 := rfl
@[simp] theorem State.advanceStep_len1 :
    (s.advanceStep).len1 = s.len1 := rfl
@[simp] theorem State.advanceStep_len2 :
    (s.advanceStep).len2 = s.len2 := rfl
@[simp] theorem State.advanceStep_sweep :
    (s.advanceStep).sweep = s.sweep := rfl
@[simp] theorem State.advanceStep_frameStep :
    (s.advanceStep).frameStep = s.frameStep + 1 := rfl
@[simp] theorem State.advanceStep_pending :
    (s.advanceStep).pending = s.pending := rfl
@[simp] theorem State.advanceStep_response :
    (s.advanceStep).response = s.response := rfl

@[simp] theorem State.respond_cfg (r : Response) :
    (s.respond r).cfg = s.cfg := rfl
@[simp] theorem State.respond_voices (r : Response) :
    (s.respond r).voices = s.voices := rfl
@[simp] theorem State.respond_wavetable (r : Response) :
    (s.respond r).wavetable = s.wavetable := rfl
@[simp] theorem State.respond_leftSum (r : Response) :
    (s.respond r).leftSum = s.leftSum := rfl
@[simp] theorem State.respond_rightSum (r : Response) :
    (s.respond r).rightSum = s.rightSum := rfl
@[simp] theorem State.respond_rr (r : Response) :
    (s.respond r).rr = s.rr := rfl
@[simp] theorem State.respond_div (r : Response) :
    (s.respond r).div = s.div := rfl
@[simp] theorem State.respond_outLeft (r : Response) :
    (s.respond r).outLeft = s.outLeft := rfl
@[simp] theorem State.respond_outRight (r : Response) :
    (s.respond r).outRight = s.outRight := rfl
@[simp] theorem State.respond_fnum0 (r : Response) :
    (s.respond r).fnum0 = s.fnum0 := rfl
@[simp] theorem State.respond_fnum1 (r : Response) :
    (s.respond r).fnum1 = s.fnum1 := rfl
@[simp] theorem State.respond_fnum2 (r : Response) :
    (s.respond r).fnum2 = s.fnum2 := rfl
@[simp] theorem State.respond_env0 (r : Response) :
    (s.respond r).env0 = s.env0 := rfl
@[simp] theorem State.respond_env1 (r : Response) :
    (s.respond r).env1 = s.env1 := rfl
@[simp] theorem State.respond_waveLevel (r : Response) :
    (s.respond r).waveLevel = s.waveLevel := rfl
@[simp] theorem State.respond_len0 (r : Response) :
    (s.respond r).len0 = s.len0 := rfl
@[simp] theorem State.respond_len1 (r : Response) :
    (s.respond r).len1 = s.len1 := rfl
@[simp] theorem State.respond_len2 (r : Response) :
    (s.respond r).len2 = s.len2 := rfl
@[simp] theorem State.respond_sweep (r : Response) :
    (s.respond r).sweep = s.sweep := rfl
@[simp] theorem State.respond_frameStep (r : Response) :
    (s.respond r).frameStep = s.frameStep := rfl
@[simp] theorem State.respond_pending (r : Response) :
    (s.respond r).pending = s.pending := rfl
@[simp] theorem State.respond_response (r : Response) :
    (s.respond r).response = r := rfl

@[simp] theorem State.beginRegisters_cfg :
    (s.beginRegisters).cfg = s.cfg := rfl
@[simp] theorem State.beginRegisters_voices :
    (s.beginRegisters).voices = s.voices := rfl
@[simp] theorem State.beginRegisters_wavetable :
    (s.beginRegisters).wavetable = s.wavetable := rfl
@[simp] theorem State.beginRegisters_leftSum :
    (s.beginRegisters).leftSum = s.leftSum := rfl
@[simp] theorem State.beginRegisters_rightSum :
    (s.beginRegisters).rightSum = s.rightSum := rfl
@[simp] theorem State.beginRegisters_rr :
    (s.beginRegisters).rr = s.rr := rfl
@[simp] theorem State.beginRegisters_div :
    (s.beginRegisters).div = s.div := rfl
@[simp] theorem State.beginRegisters_outLeft :
    (s.beginRegisters).outLeft = s.outLeft := rfl
@[simp] theorem State.beginRegisters_outRight :
    (s.beginRegisters).outRight = s.outRight := rfl
@[simp] theorem State.beginRegisters_fnum0 :
    (s.beginRegisters).fnum0 = 0 := rfl
@[simp] theorem State.beginRegisters_fnum1 :
    (s.beginRegisters).fnum1 = 0 := rfl
@[simp] theorem State.beginRegisters_fnum2 :
    (s.beginRegisters).fnum2 = 0 := rfl
@[simp] theorem State.beginRegisters_env0 :
    (s.beginRegisters).env0 = Envelope.initial := rfl
@[simp] theorem State.beginRegisters_env1 :
    (s.beginRegisters).env1 = Envelope.initial := rfl
@[simp] theorem State.beginRegisters_waveLevel :
    (s.beginRegisters).waveLevel = 0 := rfl
@[simp] theorem State.beginRegisters_len0 :
    (s.beginRegisters).len0 = LengthCounter.initial := rfl
@[simp] theorem State.beginRegisters_len1 :
    (s.beginRegisters).len1 = LengthCounter.initial := rfl
@[simp] theorem State.beginRegisters_len2 :
    (s.beginRegisters).len2 = LengthCounter.initial := rfl
@[simp] theorem State.beginRegisters_sweep :
    (s.beginRegisters).sweep = Sweep.initial := rfl
@[simp] theorem State.beginRegisters_frameStep :
    (s.beginRegisters).frameStep = 0 := rfl
@[simp] theorem State.beginRegisters_pending :
    (s.beginRegisters).pending = s.pending := rfl
@[simp] theorem State.beginRegisters_response :
    (s.beginRegisters).response = s.response := rfl

@[simp] theorem State.setFnum_cfg (c : Channel) (x : BitVec 11) :
    (s.setFnum c x).cfg = s.cfg := by cases c <;> rfl
@[simp] theorem State.setFnum_voices (c : Channel) (x : BitVec 11) :
    (s.setFnum c x).voices = s.voices := by cases c <;> rfl
@[simp] theorem State.setFnum_wavetable (c : Channel) (x : BitVec 11) :
    (s.setFnum c x).wavetable = s.wavetable := by cases c <;> rfl
@[simp] theorem State.setFnum_leftSum (c : Channel) (x : BitVec 11) :
    (s.setFnum c x).leftSum = s.leftSum := by cases c <;> rfl
@[simp] theorem State.setFnum_rightSum (c : Channel) (x : BitVec 11) :
    (s.setFnum c x).rightSum = s.rightSum := by cases c <;> rfl
@[simp] theorem State.setFnum_rr (c : Channel) (x : BitVec 11) :
    (s.setFnum c x).rr = s.rr := by cases c <;> rfl
@[simp] theorem State.setFnum_div (c : Channel) (x : BitVec 11) :
    (s.setFnum c x).div = s.div := by cases c <;> rfl
@[simp] theorem State.setFnum_outLeft (c : Channel) (x : BitVec 11) :
    (s.setFnum c x).outLeft = s.outLeft := by cases c <;> rfl
@[simp] theorem State.setFnum_outRight (c : Channel) (x : BitVec 11) :
    (s.setFnum c x).outRight = s.outRight := by cases c <;> rfl
@[simp] theorem State.setFnum_fnum0 (c : Channel) (x : BitVec 11) :
    (s.setFnum c x).fnum0 = if c = .ch0 then x else s.fnum0 := by cases c <;> rfl
@[simp] theorem State.setFnum_fnum1 (c : Channel) (x : BitVec 11) :
    (s.setFnum c x).fnum1 = if c = .ch1 then x else s.fnum1 := by cases c <;> rfl
@[simp] theorem State.setFnum_fnum2 (c : Channel) (x : BitVec 11) :
    (s.setFnum c x).fnum2 = if c = .ch2 then x else s.fnum2 := by cases c <;> rfl
@[simp] theorem State.setFnum_env0 (c : Channel) (x : BitVec 11) :
    (s.setFnum c x).env0 = s.env0 := by cases c <;> rfl
@[simp] theorem State.setFnum_env1 (c : Channel) (x : BitVec 11) :
    (s.setFnum c x).env1 = s.env1 := by cases c <;> rfl
@[simp] theorem State.setFnum_waveLevel (c : Channel) (x : BitVec 11) :
    (s.setFnum c x).waveLevel = s.waveLevel := by cases c <;> rfl
@[simp] theorem State.setFnum_len0 (c : Channel) (x : BitVec 11) :
    (s.setFnum c x).len0 = s.len0 := by cases c <;> rfl
@[simp] theorem State.setFnum_len1 (c : Channel) (x : BitVec 11) :
    (s.setFnum c x).len1 = s.len1 := by cases c <;> rfl
@[simp] theorem State.setFnum_len2 (c : Channel) (x : BitVec 11) :
    (s.setFnum c x).len2 = s.len2 := by cases c <;> rfl
@[simp] theorem State.setFnum_sweep (c : Channel) (x : BitVec 11) :
    (s.setFnum c x).sweep = s.sweep := by cases c <;> rfl
@[simp] theorem State.setFnum_frameStep (c : Channel) (x : BitVec 11) :
    (s.setFnum c x).frameStep = s.frameStep := by cases c <;> rfl
@[simp] theorem State.setFnum_pending (c : Channel) (x : BitVec 11) :
    (s.setFnum c x).pending = s.pending := by cases c <;> rfl
@[simp] theorem State.setFnum_response (c : Channel) (x : BitVec 11) :
    (s.setFnum c x).response = s.response := by cases c <;> rfl

@[simp] theorem State.setLen_cfg (c : Channel) (l : LengthCounter) :
    (s.setLen c l).cfg = s.cfg := by cases c <;> rfl
@[simp] theorem State.setLen_voices (c : Channel) (l : LengthCounter) :
    (s.setLen c l).voices = s.voices := by cases c <;> rfl
@[simp] theorem State.setLen_wavetable (c : Channel) (l : LengthCounter) :
    (s.setLen c l).wavetable = s.wavetable := by cases c <;> rfl
@[simp] theorem State.setLen_leftSum (c : Channel) (l : LengthCounter) :
    (s.setLen c l).leftSum = s.leftSum := by cases c <;> rfl
@[simp] theorem State.setLen_rightSum (c : Channel) (l : LengthCounter) :
    (s.setLen c l).rightSum = s.rightSum := by cases c <;> rfl
@[simp] theorem State.setLen_rr (c : Channel) (l : LengthCounter) :
    (s.setLen c l).rr = s.rr := by cases c <;> rfl
@[simp] theorem State.setLen_div (c : Channel) (l : LengthCounter) :
    (s.setLen c l).div = s.div := by cases c <;> rfl
@[simp] theorem State.setLen_outLeft (c : Channel) (l : LengthCounter) :
    (s.setLen c l).outLeft = s.outLeft := by cases c <;> rfl
@[simp] theorem State.setLen_outRight (c : Channel) (l : LengthCounter) :
    (s.setLen c l).outRight = s.outRight := by cases c <;> rfl
@[simp] theorem State.setLen_fnum0 (c : Channel) (l : LengthCounter) :
    (s.setLen c l).fnum0 = s.fnum0 := by cases c <;> rfl
@[simp] theorem State.setLen_fnum1 (c : Channel) (l : LengthCounter) :
    (s.setLen c l).fnum1 = s.fnum1 := by cases c <;> rfl
@[simp] theorem State.setLen_fnum2 (c : Channel) (l : LengthCounter) :
    (s.setLen c l).fnum2 = s.fnum2 := by cases c <;> rfl
@[simp] theorem State.setLen_env0 (c : Channel) (l : LengthCounter) :
    (s.setLen c l).env0 = s.env0 := by cases c <;> rfl
@[simp] theorem State.setLen_env1 (c : Channel) (l : LengthCounter) :
    (s.setLen c l).env1 = s.env1 := by cases c <;> rfl
@[simp] theorem State.setLen_waveLevel (c : Channel) (l : LengthCounter) :
    (s.setLen c l).waveLevel = s.waveLevel := by cases c <;> rfl
@[simp] theorem State.setLen_len0 (c : Channel) (l : LengthCounter) :
    (s.setLen c l).len0 = if c = .ch0 then l else s.len0 := by cases c <;> rfl
@[simp] theorem State.setLen_len1 (c : Channel) (l : LengthCounter) :
    (s.setLen c l).len1 = if c = .ch1 then l else s.len1 := by cases c <;> rfl
@[simp] theorem State.setLen_len2 (c : Channel) (l : LengthCounter) :
    (s.setLen c l).len2 = if c = .ch2 then l else s.len2 := by cases c <;> rfl
@[simp] theorem State.setLen_sweep (c : Channel) (l : LengthCounter) :
    (s.setLen c l).sweep = s.sweep := by cases c <;> rfl
@[simp] theorem State.setLen_frameStep (c : Channel) (l : LengthCounter) :
    (s.setLen c l).frameStep = s.frameStep := by cases c <;> rfl
@[simp] theorem State.setLen_pending (c : Channel) (l : LengthCounter) :
    (s.setLen c l).pending = s.pending := by cases c <;> rfl
@[simp] theorem State.setLen_response (c : Channel) (l : LengthCounter) :
    (s.setLen c l).response = s.response := by cases c <;> rfl

@[simp] theorem State.setEnv_cfg (c : SquareChannel) (e : Envelope) :
    (s.setEnv c e).cfg = s.cfg := by cases c <;> rfl
@[simp] theorem State.setEnv_voices (c : SquareChannel) (e : Envelope) :
    (s.setEnv c e).voices = s.voices := by cases c <;> rfl
@[simp] theorem State.setEnv_wavetable (c : SquareChannel) (e : Envelope) :
    (s.setEnv c e).wavetable = s.wavetable := by cases c <;> rfl
@[simp] theorem State.setEnv_leftSum (c : SquareChannel) (e : Envelope) :
    (s.setEnv c e).leftSum = s.leftSum := by cases c <;> rfl
@[simp] theorem State.setEnv_rightSum (c : SquareChannel) (e : Envelope) :
    (s.setEnv c e).rightSum = s.rightSum := by cases c <;> rfl
@[simp] theorem State.setEnv_rr (c : SquareChannel) (e : Envelope) :
    (s.setEnv c e).rr = s.rr := by cases c <;> rfl
@[simp] theorem State.setEnv_div (c : SquareChannel) (e : Envelope) :
    (s.setEnv c e).div = s.div := by cases c <;> rfl
@[simp] theorem State.setEnv_outLeft (c : SquareChannel) (e : Envelope) :
    (s.setEnv c e).outLeft = s.outLeft := by cases c <;> rfl
@[simp] theorem State.setEnv_outRight (c : SquareChannel) (e : Envelope) :
    (s.setEnv c e).outRight = s.outRight := by cases c <;> rfl
@[simp] theorem State.setEnv_fnum0 (c : SquareChannel) (e : Envelope) :
    (s.setEnv c e).fnum0 = s.fnum0 := by cases c <;> rfl
@[simp] theorem State.setEnv_fnum1 (c : SquareChannel) (e : Envelope) :
    (s.setEnv c e).fnum1 = s.fnum1 := by cases c <;> rfl
@[simp] theorem State.setEnv_fnum2 (c : SquareChannel) (e : Envelope) :
    (s.setEnv c e).fnum2 = s.fnum2 := by cases c <;> rfl
@[simp] theorem State.setEnv_env0 (c : SquareChannel) (e : Envelope) :
    (s.setEnv c e).env0 = if c = .sq0 then e else s.env0 := by cases c <;> rfl
@[simp] theorem State.setEnv_env1 (c : SquareChannel) (e : Envelope) :
    (s.setEnv c e).env1 = if c = .sq1 then e else s.env1 := by cases c <;> rfl
@[simp] theorem State.setEnv_waveLevel (c : SquareChannel) (e : Envelope) :
    (s.setEnv c e).waveLevel = s.waveLevel := by cases c <;> rfl
@[simp] theorem State.setEnv_len0 (c : SquareChannel) (e : Envelope) :
    (s.setEnv c e).len0 = s.len0 := by cases c <;> rfl
@[simp] theorem State.setEnv_len1 (c : SquareChannel) (e : Envelope) :
    (s.setEnv c e).len1 = s.len1 := by cases c <;> rfl
@[simp] theorem State.setEnv_len2 (c : SquareChannel) (e : Envelope) :
    (s.setEnv c e).len2 = s.len2 := by cases c <;> rfl
@[simp] theorem State.setEnv_sweep (c : SquareChannel) (e : Envelope) :
    (s.setEnv c e).sweep = s.sweep := by cases c <;> rfl
@[simp] theorem State.setEnv_frameStep (c : SquareChannel) (e : Envelope) :
    (s.setEnv c e).frameStep = s.frameStep := by cases c <;> rfl
@[simp] theorem State.setEnv_pending (c : SquareChannel) (e : Envelope) :
    (s.setEnv c e).pending = s.pending := by cases c <;> rfl
@[simp] theorem State.setEnv_response (c : SquareChannel) (e : Envelope) :
    (s.setEnv c e).response = s.response := by cases c <;> rfl

end

end Sys2Proof.Machine
end

