-- ==== Sys2Proof/Laws/Ops.lean ====
section
/-! SUPPORT. What each shared operation can do, said once. An `_only` lemma names every field the operation may change:
all others are as they were. -/

namespace Sys2Proof.Machine

/-! ## Voices -/

theorem State.voice_of_getElem? {s : State} {v : Nat} {o : Voice} (h : s.voices[v]? = some o) : s.voice v = o := by
  simp [State.voice, h]

theorem State.getElem?_voice {s : State} {v : Nat} (h : v < s.voices.length) : s.voices[v]? = some (s.voice v) := by
  simp [State.voice, h]

theorem State.voice_mem {s : State} {v : Nat} (h : v < s.voices.length) : s.voice v ∈ s.voices := by
  have := State.getElem?_voice h
  exact List.mem_of_getElem? this

/-- A voice depends on the voice file, and past its end on the stereo mode, alone. -/
theorem State.voice_congr {s t : State} (hv : t.voices = s.voices) (hm : t.cfg.stereoMode = s.cfg.stereoMode) (v : Nat) :
    t.voice v = s.voice v := by
  simp [State.voice, hv, hm]

/-- A voice after a change of one voice. -/
theorem State.voice_modifyVoice (s : State) (v u : Nat) (f : Voice → Voice) :
    (s.modifyVoice v f).voice u = if u = v ∧ v < s.voices.length then f (s.voice v) else s.voice u := by
  simp only [State.voice, State.modifyVoice, List.getD_eq_getElem?_getD, List.getElem?_modify]
  by_cases h : v = u
  · subst h
    by_cases hl : v < s.voices.length <;> simp [hl]
  · have h' : ¬ u = v := fun e => h e.symm
    cases s.voices[u]? <;> simp [h, h']

/-- Two changes of one voice are one. -/
theorem State.modifyVoice_modifyVoice (s : State) (v : Nat) (f g : Voice → Voice) :
    (s.modifyVoice v f).modifyVoice v g = s.modifyVoice v (fun o => g (f o)) := by
  simp only [State.modifyVoice, State.mk.injEq, true_and, and_true]
  apply List.ext_getElem?
  intro n
  simp only [List.getElem?_modify]
  cases s.voices[n]? <;> simp; split <;> simp

/-- Changes of two voices commute. -/
theorem State.modifyVoice_comm (s : State) {v u : Nat} (h : v ≠ u) (f g : Voice → Voice) :
    (s.modifyVoice v f).modifyVoice u g = (s.modifyVoice u g).modifyVoice v f := by
  simp only [State.modifyVoice, State.mk.injEq, true_and, and_true]
  apply List.ext_getElem?
  intro n
  simp only [List.getElem?_modify]
  cases s.voices[n]? <;> simp
  split <;> split <;> simp_all

/-- Two changes that agree on the voice they change are the same change. -/
theorem State.modifyVoice_congr (s : State) (v : Nat) {f g : Voice → Voice}
    (h : v < s.voices.length → f (s.voice v) = g (s.voice v)) : s.modifyVoice v f = s.modifyVoice v g := by
  simp only [State.modifyVoice, State.mk.injEq, true_and, and_true]
  apply List.ext_getElem?
  intro n
  simp only [List.getElem?_modify]
  by_cases hn : v = n
  · subst hn
    by_cases hl : v < s.voices.length
    · simp [State.getElem?_voice hl, h hl]
    · simp [hl]
  · cases s.voices[n]? <;> simp [hn]

/-- A change of one voice, place by place. -/
theorem State.modifyVoice_mapIdx (s : State) (v : Nat) (f : Voice → Voice) :
    (s.modifyVoice v f).voices = s.voices.mapIdx (fun u o => if u = v then f o else o) := by
  apply List.ext_getElem?
  intro n
  simp only [State.modifyVoice, List.getElem?_modify, List.getElem?_mapIdx]
  by_cases h : v = n
  · subst h; cases s.voices[v]? <;> simp
  · have h' : ¬ n = v := fun e => h e.symm
    cases s.voices[n]? <;> simp [h, h']

/-- Both gains at x, as a stereo mode stores them (10_state R23). -/
def Gain.both (mode : StereoMode) (x : Byte) : Gain := if mode = .independent then .separate x x else .shared x

theorem Gain.both_fits (mode : StereoMode) (x : Byte) : (Gain.both mode x).fits mode := by
  cases mode <;> simp [Gain.both, Gain.fits]

@[simp] theorem Gain.both_left (mode : StereoMode) (x : Byte) : (Gain.both mode x).left = x := by
  cases mode <;> rfl

@[simp] theorem Gain.both_right (mode : StereoMode) (x : Byte) : (Gain.both mode x).right = x := by
  cases mode <;> rfl

theorem Gain.setLeft_fits {g : Gain} {mode : StereoMode} (x : Byte) (h : g.fits mode) : (g.setLeft x).fits mode := by
  cases g <;> exact h

theorem Gain.setRight_fits {g : Gain} {mode : StereoMode} (x : Byte) (h : g.fits mode) : (g.setRight x).fits mode := by
  cases g <;> exact h

theorem Gain.zero_fits (mode : StereoMode) : (Gain.zero mode).fits mode := by
  cases mode <;> simp [Gain.zero, Gain.fits]

/-- `ChanAmpWrite` changes the voice file alone. -/
theorem State.chanAmpWrite_only (s : State) (c : Channel) (x : Byte) :
    ∃ vs, s.chanAmpWrite c x = { s with voices := vs } := by
  unfold State.chanAmpWrite
  split <;> exact ⟨_, rfl⟩

/-- Where gains are stored as the stereo mode says, `ChanAmpWrite` sets both gains of the channel's voice. -/
theorem State.chanAmpWrite_eq {s : State} (h : ∀ o ∈ s.voices, o.gain.fits s.cfg.stereoMode) (c : Channel) (x : Byte) :
    s.chanAmpWrite c x = s.modifyVoice c.voice (fun o => { o with gain := Gain.both s.cfg.stereoMode x }) := by
  have hg : c.voice < s.voices.length → (s.voice c.voice).gain.fits s.cfg.stereoMode := fun hl => h _ (State.voice_mem hl)
  unfold State.chanAmpWrite
  split
  · next hm =>
    simp only [State.setAmplitudeRight, State.setAmplitudeLeft, State.modifyVoice_modifyVoice]
    refine State.modifyVoice_congr _ _ (fun hl => ?_)
    have := hg hl
    cases hgain : (s.voice c.voice).gain <;>
      simp_all [Gain.fits, Gain.both, Gain.setLeft, Gain.setRight]
  · next hm =>
    simp only [State.setAmplitudeLeft]
    refine State.modifyVoice_congr _ _ (fun hl => ?_)
    have := hg hl
    cases hgain : (s.voice c.voice).gain <;>
      simp_all [Gain.fits, Gain.both, Gain.setLeft]

/-- `ChanAmpWrite` changes one voice, and of it the gain alone. -/
theorem State.chanAmpWrite_gain (s : State) (c : Channel) (x : Byte) :
    ∃ g : Gain → Gain, s.chanAmpWrite c x = s.modifyVoice c.voice (fun o => { o with gain := g o.gain })
      ∧ ∀ mode k, k.fits mode → (g k).fits mode := by
  unfold State.chanAmpWrite
  split
  · refine ⟨fun k => (k.setLeft x).setRight x, ?_, fun _ _ h => Gain.setRight_fits _ (Gain.setLeft_fits _ h)⟩
    simp only [State.setAmplitudeRight, State.setAmplitudeLeft, State.modifyVoice_modifyVoice]
  · exact ⟨fun k => k.setLeft x, rfl, fun _ _ h => Gain.setLeft_fits _ h⟩

/-! ## The register interface -/

/-- A trigger changes its voice, an envelope's counter and, for channel 0, the sweep. -/
theorem State.trigger_only (s : State) (c : Channel) :
    ∃ vs e0 e1 w, s.trigger c = { s with voices := vs, env0 := e0, env1 := e1, sweep := w } := by
  obtain ⟨vs, h⟩ := s.chanAmpWrite_only c (s.startingVolume c)
  unfold State.trigger
  rw [h]
  cases c <;> exact ⟨_, _, _, _, rfl⟩

/-- An FHI write changes its channel's frequency, length enable and voice, and what a trigger changes. -/
theorem State.writeFhi_only (s : State) (c : Channel) (d : Byte) :
    ∃ vs f0 f1 f2 l0 l1 l2 e0 e1 w, s.writeFhi c d =
      { s with voices := vs, fnum0 := f0, fnum1 := f1, fnum2 := f2, len0 := l0, len1 := l1, len2 := l2,
               env0 := e0, env1 := e1, sweep := w } := by
  unfold State.writeFhi
  simp only []
  split
  · obtain ⟨vs, e0, e1, w, h⟩ := State.trigger_only
      ((s.setFnum c (latchHigh (s.fnum c) (fnumHighOf d))).setLen c
        { (s.setFnum c (latchHigh (s.fnum c) (fnumHighOf d))).len c with enabled := lengthEnableOf d }) c
    rw [h]
    cases c <;> exact ⟨_, _, _, _, _, _, _, _, _, _, rfl⟩
  · obtain ⟨vs, h⟩ := State.chanAmpWrite_only
      ((s.setFnum c (latchHigh (s.fnum c) (fnumHighOf d))).setLen c
        { (s.setFnum c (latchHigh (s.fnum c) (fnumHighOf d))).len c with enabled := lengthEnableOf d }) c 0
    rw [h]
    cases c <;> exact ⟨_, _, _, _, _, _, _, _, _, _, rfl⟩

/-- An FLO write changes a frequency field alone. -/
theorem State.writeFlo_only (s : State) (c : Channel) (d : Byte) :
    ∃ f0 f1 f2, s.writeFlo c d = { s with fnum0 := f0, fnum1 := f1, fnum2 := f2 } := by
  cases c <;> exact ⟨_, _, _, rfl⟩

/-- An ENV write changes an envelope alone. -/
theorem State.writeEnv_only (s : State) (c : SquareChannel) (d : Byte) :
    ∃ e0 e1, s.writeEnv c d = { s with env0 := e0, env1 := e1 } := by
  cases c <;> exact ⟨_, _, rfl⟩

/-- A LENDUTY write changes a voice's select and a length counter alone. -/
theorem State.writeLenduty_only (s : State) (c : SquareChannel) (d : Byte) :
    ∃ vs l0 l1, s.writeLenduty c d = { s with voices := vs, len0 := l0, len1 := l1 } := by
  cases c <;> exact ⟨_, _, _, rfl⟩

/-! ## The synthesis engine -/

/-- The mixer changes the sums alone. -/
theorem State.mix_only (s : State) (v : Nat) (x : Byte) :
    ∃ l r, s.mix v x = { s with leftSum := l, rightSum := r } := by
  unfold State.mix
  split
  · exact ⟨_, _, rfl⟩
  · exact ⟨_, _, rfl⟩
  · split <;> exact ⟨_, _, rfl⟩

/-- An advance changes the phase of its voice and the sums alone. -/
theorem State.advance_only (s : State) (v : Nat) :
    ∃ l r, s.advance v =
      { s.modifyVoice v (fun o => { o with phase := (s.voice v).phase + (s.voice v).tune }) with
        leftSum := l, rightSum := r } := by
  unfold State.advance
  exact State.mix_only _ _ _

/-- Advances change phases and the sums alone. -/
theorem State.advanceFrom_only (s : State) (first k : Nat) :
    ∃ vs l r, s.advanceFrom first k = { s with voices := vs, leftSum := l, rightSum := r }
      ∧ vs.length = s.voices.length
      ∧ ∀ (v : Nat) (o : Voice), s.voices[v]? = some o → ∃ p, vs[v]? = some { o with phase := p } := by
  induction k generalizing s first with
  | zero => exact ⟨s.voices, s.leftSum, s.rightSum, rfl, rfl, fun v o h => ⟨o.phase, h⟩⟩
  | succ k ih =>
    obtain ⟨l, r, h⟩ := s.advance_only first
    obtain ⟨vs, l', r', h', hl, hv⟩ := ih (s.advance first) (first + 1)
    refine ⟨vs, l', r', ?_, ?_, ?_⟩
    · simp only [State.advanceFrom]
      rw [h', h]
      rfl
    · rw [hl, h]; simp
    · intro v o ho
      rw [h] at hv
      simp only [State.modifyVoice_voices] at hv
      by_cases hvf : first = v
      · obtain ⟨p, hp⟩ := hv v { o with phase := (s.voice first).phase + (s.voice first).tune }
          (by simp [ho, hvf])
        exact ⟨p, hp⟩
      · exact hv v o (by simp [ho, hvf])

/-- A processed TICK changes phases, the sums, `rr` and the outputs alone. -/
theorem State.processTick_only (s : State) :
    ∃ vs l r n ol or, s.processTick =
        { s with voices := vs, leftSum := l, rightSum := r, rr := n, outLeft := ol, outRight := or }
      ∧ vs.length = s.voices.length
      ∧ ∀ (v : Nat) (o : Voice), s.voices[v]? = some o → ∃ p, vs[v]? = some { o with phase := p } := by
  obtain ⟨vs, l, r, h, hl, hv⟩ := s.advanceFrom_only s.rr (voicesPerTick s.cfg.stereoMode)
  unfold State.processTick
  simp only [h]
  split
  · exact ⟨vs, _, _, _, _, _, rfl, hl, hv⟩
  · exact ⟨vs, _, _, _, _, _, rfl, hl, hv⟩

/-! ## The frame sequencer's units -/

/-- A length unit counts a length counter down and may mute its voice. -/
theorem State.lengthUnit_only (s : State) (c : Channel) :
    ∃ vs n0 n1 n2, s.lengthUnit c =
      { s with voices := vs, len0 := { s.len0 with counter := n0 }, len1 := { s.len1 with counter := n1 },
               len2 := { s.len2 with counter := n2 } } := by
  unfold State.lengthUnit
  simp only []
  split
  · split
    · obtain ⟨vs, h⟩ := (s.setLen c { s.len c with counter := (s.len c).counter - 1 }).chanAmpWrite_only c 0
      rw [h]
      cases c <;> exact ⟨_, _, _, _, rfl⟩
    · cases c <;> exact ⟨_, _, _, _, rfl⟩
  · exact ⟨_, _, _, _, rfl⟩

/-- An envelope unit counts an envelope down and may step the gain of its voice. -/
theorem State.envelopeUnit_only (s : State) (c : SquareChannel) :
    ∃ vs n0 n1, s.envelopeUnit c =
      { s with voices := vs, env0 := { s.env0 with counter := n0 }, env1 := { s.env1 with counter := n1 } } := by
  unfold State.envelopeUnit
  simp only []
  split
  · split
    · rw [(State.chanAmpWrite_only _ c.channel _).choose_spec]
      cases c <;> exact ⟨_, _, _, rfl⟩
    · cases c <;> exact ⟨_, _, _, rfl⟩
  · exact ⟨_, _, _, rfl⟩

/-- The sweep's overflow changes voice 0 and its own enable alone. -/
theorem State.sweepOverflow_only (s : State) :
    ∃ vs, s.sweepOverflow = { s with voices := vs, sweep := { s.sweep with enabled := false } } := by
  obtain ⟨vs, h⟩ := s.chanAmpWrite_only .ch0 0
  unfold State.sweepOverflow
  rw [h]
  exact ⟨vs, rfl⟩

/-- What the sweep's commit changes. -/
theorem State.sweepCommit_eq (s : State) (f : BitVec 11) :
    s.sweepCommit f =
      { s.modifyVoice 0 (fun o => { o with tune := tuneOf s.cfg f }) with
        sweep := { s.sweep with shadowFrequency := f }, fnum0 := f } := rfl

/-- The sweep unit changes its own unit, `fnum[0]` and voice 0 alone. -/
theorem State.sweepUnit_only (s : State) :
    ∃ vs f n sf en, s.sweepUnit =
      { s with voices := vs, fnum0 := f,
               sweep := { s.sweep with counter := n, shadowFrequency := sf, enabled := en } } := by
  unfold State.sweepUnit
  simp only []
  split
  · generalize countDown s.sweep.period s.sweep.counter = cd
    split
    · split
      · obtain ⟨vs, h⟩ := (s.setSweep { s.sweep with counter := cd.1 }).sweepOverflow_only
        rw [h]
        exact ⟨_, _, _, _, _, rfl⟩
      · rw [State.sweepCommit_eq]
        exact ⟨_, _, _, _, _, rfl⟩
    · exact ⟨_, _, _, _, _, rfl⟩
  · exact ⟨_, _, _, _, _, rfl⟩

/-! ## BEGIN -/

/-- BEGIN's wavetable part changes the wavetable alone. -/
theorem State.beginWavetable_only (s : State) : ∃ m, s.beginWavetable = { s with wavetable := m } := by
  simp only [State.beginWavetable, State.buildDuty, State.fillBytes]
  exact ⟨_, rfl⟩

/-- BEGIN's voice part changes the voice file alone. -/
theorem State.beginVoice_only (s : State) (c : Channel) : ∃ vs, s.beginVoice c = { s with voices := vs } := by
  unfold State.beginVoice
  rw [(State.chanAmpWrite_only _ c 0).choose_spec]
  exact ⟨_, rfl⟩

/-- What BEGIN's wavetable part leaves in each byte: the duty slots, the cleared pattern RAM, all else as it was. -/
theorem State.beginWavetable_readByte (s : State) (a : Nat) :
    s.beginWavetable.readByte a =
      if 0x40 ≤ a ∧ a < 0x60 then 0x00
      else if 0x80 ≤ a ∧ a < 0x100 then dutySample (BitVec.ofNat 2 ((a - 0x80) / 32)) ((a - 0x80) % 32)
      else s.readByte a := by
  have base : (dutyBase 0).toNat = 0x80 ∧ (dutyBase 1).toNat = 0xA0 ∧ (dutyBase 2).toNat = 0xC0
      ∧ (dutyBase 3).toNat = 0xE0 := by decide
  unfold State.beginWavetable State.buildDuty
  simp only [State.readByte, State.fillBytes, memRead_memFill, base, patternBase]
  have k : ∀ (i : BitVec 2) (b : Nat), b = 0x80 + 32 * i.toNat → b ≤ a → a < b + 32 →
      dutySample i (a - b) = dutySample (BitVec.ofNat 2 ((a - 0x80) / 32)) ((a - 0x80) % 32) := by
    intro i b hb h1 h2
    rw [show (a - 0x80) / 32 = i.toNat by omega, show (a - 0x80) % 32 = a - b by omega, BitVec.ofNat_toNat]
    rfl
  have k0 := k 0 0x80 rfl
  have k1 := k 1 0xA0 rfl
  have k2 := k 2 0xC0 rfl
  have k3 := k 3 0xE0 rfl
  by_cases h1 : 0x40 ≤ a ∧ a < 0x60
  · rw [if_pos (by omega), if_pos h1]
  · rw [if_neg (by omega), if_neg h1]
    by_cases h2 : 0x80 ≤ a ∧ a < 0x100
    · rw [if_pos h2]
      by_cases g3 : 0xE0 ≤ a
      · rw [if_pos (by omega), k3 g3 (by omega)]
      · rw [if_neg (by omega)]
        by_cases g2 : 0xC0 ≤ a
        · rw [if_pos (by omega), k2 g2 (by omega)]
        · rw [if_neg (by omega)]
          by_cases g1 : 0xA0 ≤ a
          · rw [if_pos (by omega), k1 g1 (by omega)]
          · rw [if_neg (by omega), if_pos (by omega), k0 (by omega) (by omega)]
    · rw [if_neg h2, if_neg (by omega), if_neg (by omega), if_neg (by omega), if_neg (by omega)]

/-- BEGIN's set-up of one voice, where gains are stored as the stereo mode says. -/
theorem State.beginVoice_eq {s : State} (h : ∀ o ∈ s.voices, o.gain.fits s.cfg.stereoMode) (c : Channel) :
    s.beginVoice c = s.modifyVoice c.voice (fun _ =>
      { phase := 0, tune := 0, waveMask := 0x1F, waveSelect := if c = .ch2 then 0x40 else dutyBase 0,
        gain := Gain.both s.cfg.stereoMode 0 }) := by
  have hm : ∀ f : Voice → Voice, (∀ o, (f o).gain = o.gain) →
      ∀ o ∈ (s.modifyVoice c.voice f).voices, o.gain.fits s.cfg.stereoMode := by
    intro f hf o ho
    obtain ⟨n, hn⟩ := List.mem_iff_getElem?.mp ho
    simp only [State.modifyVoice, List.getElem?_modify] at hn
    cases hv : s.voices[n]? with
    | none => simp [hv] at hn
    | some q =>
      have hq := h q (List.mem_of_getElem? hv)
      simp only [hv, Option.map_eq_map, Option.map_some, Option.some.injEq] at hn
      subst hn
      split
      · rw [hf]; exact hq
      · exact hq
  unfold State.beginVoice
  simp only [State.setPhase, State.setTune, State.setWaveMask, State.setWaveSelect, State.modifyVoice_modifyVoice]
  refine (State.chanAmpWrite_eq (hm (fun o =>
    { o with phase := 0, tune := 0, waveMask := 0x1F, waveSelect := if c = .ch2 then 0x40 else dutyBase 0 })
    (fun _ => rfl)) c 0).trans ?_
  rw [State.modifyVoice_modifyVoice]
  rfl

/-- A countdown at 0 or 1 fires and reloads. -/
theorem countDown_fires : ∀ p n : BitVec 3, n.toNat ≤ 1 → countDown p n = (p, true) := by decide

/-- A countdown above 1 counts one down and does not fire. -/
theorem countDown_counts : ∀ p n : BitVec 3, 2 ≤ n.toNat → countDown p n = (BitVec.ofNat 3 (n.toNat - 1), false) := by
  decide

/-! ## The guards -/

theorem whenInterpreter_next {s t : State} {f : State → State} :
    whenInterpreter s f = .next t ↔ s.cfg.registerInterpreter = .present ∧ f s = t := by
  unfold whenInterpreter
  split <;> simp_all

theorem whenVoice_next {s t : State} {v : BitVec 4} {f : State → State} :
    whenVoice s v f = .next t ↔ v.toNat < s.cfg.voiceCount ∧ f s = t := by
  unfold whenVoice
  split <;> simp_all

theorem whenAddress_next {s t : State} {a : Byte} {f : State → State} :
    whenAddress s a f = .next t ↔ a.toNat < s.cfg.wavetableSize ∧ f s = t := by
  unfold whenAddress
  split <;> simp_all

theorem registerWrite_next {s t : State} {f : State → State} :
    registerWrite s f = .next t ↔ s.cfg.registerInterpreter = .present ∧ (f s).respond .nothing = t :=
  whenInterpreter_next

theorem pokeVoice_next {s t : State} {v : BitVec 4} {f : State → State} :
    pokeVoice s v f = .next t ↔ v.toNat < s.cfg.voiceCount ∧ (f s).respond .nothing = t :=
  whenVoice_next

theorem peekVoice_next {s t : State} {v : BitVec 4} {f : Voice → BitVec 16} :
    peekVoice s v f = .next t ↔ v.toNat < s.cfg.voiceCount ∧ s.respond (.field (f (s.voice v.toNat))) = t :=
  whenVoice_next

end Sys2Proof.Machine
end

