-- ==== Sys2Proof/Laws/Invariant.lean ====
section
/-! SUPPORT. The operations keep the invariant of a constructed block (Safety.lean): one lemma per operation. -/

namespace Sys2Proof.Machine

variable {s : State}

theorem State.Inv.voices_ge_two (h : s.Inv) : 2 ≤ s.cfg.voiceCount := by
  have := h.legal.1
  simp only [legalVoiceCounts, List.mem_cons, List.not_mem_nil, or_false] at this
  omega

theorem State.Inv.voices_le_ten (h : s.Inv) : s.cfg.voiceCount ≤ 10 := by
  have := h.legal.1
  simp only [legalVoiceCounts, List.mem_cons, List.not_mem_nil, or_false] at this
  omega

theorem State.Inv.voices_even (h : s.Inv) : s.cfg.voiceCount % 2 = 0 := by
  have := h.legal.1
  simp only [legalVoiceCounts, List.mem_cons, List.not_mem_nil, or_false] at this
  omega

theorem State.Inv.present_fits (h : s.Inv) (hp : s.cfg.registerInterpreter = .present) :
    s.cfg.wavetableSize = 256 ∧ 4 ≤ s.cfg.voiceCount := h.legal.2.2.2.2 hp

theorem inv_modifyVoice (h : s.Inv) (v : Nat) {f : Voice → Voice}
    (hf : ∀ o : Voice, o.gain.fits s.cfg.stereoMode → (f o).gain.fits s.cfg.stereoMode) : (s.modifyVoice v f).Inv :=
  { h with
    voiceFile := by simpa using h.voiceFile
    gains := by
      intro o ho
      obtain ⟨n, hn⟩ := List.mem_iff_getElem?.mp ho
      simp only [State.modifyVoice_voices, List.getElem?_modify] at hn
      cases hv : s.voices[n]? with
      | none => simp [hv] at hn
      | some q =>
        have hq := h.gains q (List.mem_of_getElem? hv)
        simp only [hv, Option.map_eq_map, Option.map_some, Option.some.injEq] at hn
        subst hn
        simp only [State.modifyVoice_cfg]
        split
        · exact hf q hq
        · exact hq }

theorem inv_setPhase (h : s.Inv) (v : Nat) (x : BitVec 16) : (s.setPhase v x).Inv := inv_modifyVoice h v (fun _ h => h)

theorem inv_setTune (h : s.Inv) (v : Nat) (x : BitVec 16) : (s.setTune v x).Inv := inv_modifyVoice h v (fun _ h => h)

theorem inv_setWaveSelect (h : s.Inv) (v : Nat) (x : Byte) : (s.setWaveSelect v x).Inv :=
  inv_modifyVoice h v (fun _ h => h)

theorem inv_setWaveMask (h : s.Inv) (v : Nat) (x : Byte) : (s.setWaveMask v x).Inv :=
  inv_modifyVoice h v (fun _ h => h)

theorem inv_setAmplitudeLeft (h : s.Inv) (v : Nat) (x : Byte) : (s.setAmplitudeLeft v x).Inv :=
  inv_modifyVoice h v (fun _ h => Gain.setLeft_fits x h)

theorem inv_setAmplitudeRight (h : s.Inv) (v : Nat) (x : Byte) : (s.setAmplitudeRight v x).Inv :=
  inv_modifyVoice h v (fun _ h => Gain.setRight_fits x h)

theorem inv_respond (h : s.Inv) (r : Response) : (s.respond r).Inv := { h with }

theorem inv_setFnum (h : s.Inv) (c : Channel) (x : BitVec 11) : (s.setFnum c x).Inv := by
  cases c <;> exact { h with }

theorem inv_setSweep (h : s.Inv) (w : Sweep) : (s.setSweep w).Inv := { h with }

theorem inv_advanceStep (h : s.Inv) : s.advanceStep.Inv := { h with }

theorem inv_setWaveLevel (h : s.Inv) {x : Byte} (hx : x ∈ [(0x00 : Byte), 0xF0, 0x78, 0x3C]) : (s.setWaveLevel x).Inv :=
  { h with level := hx }

theorem inv_setEnv (h : s.Inv) (c : SquareChannel) {e : Envelope} (hv : e.startingVolume &&& 0x0F = 0)
    (hc : e.counter.toNat ≤ e.period.toNat) : (s.setEnv c e).Inv := by
  cases c
  · exact { h with volume0 := hv, countdown0 := hc }
  · exact { h with volume1 := hv, countdown1 := hc }

theorem inv_env (h : s.Inv) (c : SquareChannel) :
    (s.env c).startingVolume &&& 0x0F = 0 ∧ (s.env c).counter.toNat ≤ (s.env c).period.toNat := by
  cases c
  · exact ⟨h.volume0, h.countdown0⟩
  · exact ⟨h.volume1, h.countdown1⟩

/-- The bound on a channel's length counter. -/
def lengthBound : Channel → Nat
  | .ch0 => 64
  | .ch1 => 64
  | .ch2 => 256

theorem inv_setLen (h : s.Inv) (c : Channel) {l : LengthCounter} (hc : l.counter.toNat ≤ lengthBound c)
    (hl : c ≠ .ch2 → l.loadValue.toNat < 64) : (s.setLen c l).Inv := by
  cases c
  · exact { h with count0 := hc, load0 := hl (by decide) }
  · exact { h with count1 := hc, load1 := hl (by decide) }
  · exact { h with count2 := hc }

theorem inv_len (h : s.Inv) (c : Channel) :
    (s.len c).counter.toNat ≤ lengthBound c ∧ (c ≠ .ch2 → (s.len c).loadValue.toNat < 64) := by
  cases c
  · exact ⟨h.count0, fun _ => h.load0⟩
  · exact ⟨h.count1, fun _ => h.load1⟩
  · exact ⟨h.count2, fun h => absurd rfl h⟩

theorem inv_writeByte (h : s.Inv) {a : Nat} (ha : a < s.cfg.wavetableSize) (x : Byte) : (s.writeByte a x).Inv :=
  { h with wavetable := memWrite_wf h.wavetable ha }

theorem inv_fillBytes (h : s.Inv) {b n : Nat} (hb : b + n ≤ s.cfg.wavetableSize) (g : Nat → Byte) :
    (s.fillBytes b g n).Inv :=
  { h with wavetable := memFill_wf h.wavetable hb }

theorem inv_chanAmpWrite (h : s.Inv) (c : Channel) (x : Byte) : (s.chanAmpWrite c x).Inv := by
  rw [State.chanAmpWrite_eq h.gains]
  exact inv_modifyVoice h _ (fun _ _ => Gain.both_fits _ _)

theorem inv_reloadEnvelope (h : s.Inv) (c : SquareChannel) : (s.reloadEnvelope c).Inv :=
  inv_setEnv h c (inv_env h c).1 le_rfl

theorem inv_trigger (h : s.Inv) (c : Channel) : (s.trigger c).Inv := by
  have h1 := inv_chanAmpWrite h c (s.startingVolume c)
  have h2 : ((s.chanAmpWrite c (s.startingVolume c)).setPhase c.voice 0).Inv := inv_modifyVoice h1 _ (fun _ h => h)
  have h3 := inv_modifyVoice h2 c.voice (f := fun o => { o with
    tune := tuneOf ((s.chanAmpWrite c (s.startingVolume c)).setPhase c.voice 0).cfg
      (((s.chanAmpWrite c (s.startingVolume c)).setPhase c.voice 0).fnum c) }) (fun _ h => h)
  cases c
  · exact inv_setSweep (inv_reloadEnvelope h3 .sq0) _
  · exact inv_reloadEnvelope h3 .sq1
  · exact h3

theorem inv_writeFhi (h : s.Inv) (c : Channel) (d : Byte) : (s.writeFhi c d).Inv := by
  have h1 := inv_setFnum h c (latchHigh (s.fnum c) (fnumHighOf d))
  have h2 := inv_setLen h1 c (l := { (s.setFnum c (latchHigh (s.fnum c) (fnumHighOf d))).len c with
    enabled := lengthEnableOf d }) (inv_len h1 c).1 (inv_len h1 c).2
  unfold State.writeFhi
  simp only []
  split
  · exact inv_trigger h2 c
  · exact inv_chanAmpWrite h2 c 0

theorem inv_writeEnv (h : s.Inv) (c : SquareChannel) (d : Byte) : (s.writeEnv c d).Inv := by
  refine inv_setEnv h c ?_ le_rfl
  show volumeOf d &&& 0x0F = 0
  unfold volumeOf
  rw [BitVec.and_assoc]
  simp

theorem shortLengthOf_lt (d : Byte) : (shortLengthOf d).toNat < 64 := by
  unfold shortLengthOf
  simp only [BitVec.toNat_setWidth]
  have : (BitVec.extractLsb' 0 6 d).toNat < 2 ^ 6 := BitVec.isLt _
  omega

theorem inv_writeLenduty (h : s.Inv) (c : SquareChannel) (d : Byte) : (s.writeLenduty c d).Inv := by
  have h1 : (s.setWaveSelect c.channel.voice (dutyBase (dutyOf d))).Inv := inv_modifyVoice h _ (fun _ h => h)
  refine inv_setLen h1 c.channel ?_ (fun _ => shortLengthOf_lt d)
  show (shortCountOf d).toNat ≤ _
  have : (shortCountOf d).toNat ≤ 64 := by
    unfold shortCountOf
    rw [BitVec.toNat_ofNat]
    exact (Nat.mod_le _ _).trans (Nat.sub_le _ _)
  cases c <;> exact this

theorem inv_lengthUnit (h : s.Inv) (c : Channel) : (s.lengthUnit c).Inv := by
  unfold State.lengthUnit
  simp only []
  split
  · next hc =>
    have hl := inv_len h c
    have h1 : (s.setLen c { s.len c with counter := (s.len c).counter - 1 }).Inv := by
      refine inv_setLen h c ?_ hl.2
      have : (s.len c).counter.toNat ≠ 0 := fun e => hc.2 (BitVec.eq_of_toNat_eq e)
      simp only
      have := hl.1
      bv_omega
    split
    · exact inv_chanAmpWrite h1 c 0
    · exact h1
  · exact h

theorem countDown_le {p n : BitVec 3} (h : n.toNat ≤ p.toNat) : (countDown p n).1.toNat ≤ p.toNat := by
  revert h; revert p n; decide

theorem inv_envelopeUnit (h : s.Inv) (c : SquareChannel) : (s.envelopeUnit c).Inv := by
  unfold State.envelopeUnit
  simp only []
  split
  · have h1 : (s.setEnv c { s.env c with counter := (countDown (s.env c).period (s.env c).counter).1 }).Inv :=
      inv_setEnv h c (inv_env h c).1 (countDown_le (inv_env h c).2)
    split
    · exact inv_chanAmpWrite h1 _ _
    · exact h1
  · exact h

theorem inv_sweepUnit (h : s.Inv) : s.sweepUnit.Inv := by
  unfold State.sweepUnit
  simp only []
  split
  · generalize countDown s.sweep.period s.sweep.counter = cd
    have h1 := inv_setSweep h { s.sweep with counter := cd.1 }
    split
    · split
      · exact inv_setSweep (inv_chanAmpWrite h1 .ch0 0) _
      · exact inv_modifyVoice (inv_setFnum (inv_setSweep h1 _) .ch0 _) 0 (fun _ h => h)
    · exact h1
  · exact h

theorem inv_runUnits (h : s.Inv) : s.runUnits.Inv := by
  unfold State.runUnits
  simp only []
  have hl : s.lengthUnits.Inv := inv_lengthUnit (inv_lengthUnit (inv_lengthUnit h _) _) _
  have h1 : (if lengthStep s.frameStep then s.lengthUnits else s).Inv := by split <;> assumption
  have h2 : (if sweepStep s.frameStep then (if lengthStep s.frameStep then s.lengthUnits else s).sweepUnit
      else (if lengthStep s.frameStep then s.lengthUnits else s)).Inv := by
    split
    · exact inv_sweepUnit h1
    · exact h1
  split
  · exact inv_envelopeUnit (inv_envelopeUnit h2 _) _
  · exact h2

theorem inv_beginWavetable (h : s.Inv) (hs : s.cfg.wavetableSize = 256) : s.beginWavetable.Inv := by
  unfold State.beginWavetable State.buildDuty
  have hb : ∀ i : BitVec 2, (dutyBase i).toNat + 32 ≤ 256 := by decide
  have h0 := inv_fillBytes h (b := (dutyBase 0).toNat) (n := 32) (by rw [hs]; exact hb 0) (dutySample 0)
  have h1 := inv_fillBytes h0 (b := (dutyBase 1).toNat) (n := 32) (by simp only [State.fillBytes_cfg, hs]; exact hb 1) (dutySample 1)
  have h2 := inv_fillBytes h1 (b := (dutyBase 2).toNat) (n := 32) (by simp only [State.fillBytes_cfg, hs]; exact hb 2) (dutySample 2)
  have h3 := inv_fillBytes h2 (b := (dutyBase 3).toNat) (n := 32) (by simp only [State.fillBytes_cfg, hs]; exact hb 3) (dutySample 3)
  exact inv_fillBytes h3 (b := patternBase) (n := 32) (by simp only [State.fillBytes_cfg, hs]; decide) (fun _ => 0x00)

theorem inv_beginVoice (h : s.Inv) (c : Channel) : (s.beginVoice c).Inv := by
  unfold State.beginVoice
  exact inv_chanAmpWrite (inv_setWaveSelect (inv_setWaveMask (inv_setTune (inv_setPhase h _ _) _ _) _ _) _ _) c 0

theorem inv_beginRegisters (h : s.Inv) : s.beginRegisters.Inv :=
  { h with
    volume0 := by simp [Envelope.initial]
    volume1 := by simp [Envelope.initial]
    countdown0 := by simp [Envelope.initial]
    countdown1 := by simp [Envelope.initial]
    level := by simp
    load0 := by simp [LengthCounter.initial]
    load1 := by simp [LengthCounter.initial]
    count0 := by simp [LengthCounter.initial]
    count1 := by simp [LengthCounter.initial]
    count2 := by simp [LengthCounter.initial] }

/-- One advance adds at most 255 × 255 to each sum, exactly. -/
theorem product_toNat (x g : Byte) : (product x g).toNat = x.toNat * g.toNat := by
  unfold product
  have hx : x.toNat ≤ 255 := by have := x.isLt; omega
  have hg : g.toNat ≤ 255 := by have := g.isLt; omega
  have : x.toNat * g.toNat ≤ 255 * 255 := Nat.mul_le_mul hx hg
  simp only [BitVec.toNat_mul, BitVec.toNat_setWidth]
  rw [Nat.mod_eq_of_lt (by omega : x.toNat < 2 ^ 20), Nat.mod_eq_of_lt (by omega : g.toNat < 2 ^ 20),
    Nat.mod_eq_of_lt (by omega)]

theorem product_le (x g : Byte) : (product x g).toNat ≤ 65025 := by
  rw [product_toNat]
  have hx : x.toNat ≤ 255 := by have := x.isLt; omega
  have hg : g.toNat ≤ 255 := by have := g.isLt; omega
  exact Nat.mul_le_mul hx hg

end Sys2Proof.Machine
end

