-- ==== Sys2Proof/Laws/Engine.lean ====
section
/-! SUPPORT. What an advance and a processed TICK do, and that they keep the invariant (40_synthesis). -/

namespace Sys2Proof.Machine

/-- The sample voice v reads at its next advance. -/
def State.sampleAt (s : State) (v : Nat) : Byte :=
  s.readByte (boundAddress s.cfg
    (foldAddress ((s.voice v).phase + (s.voice v).tune) (s.voice v).waveMask (s.voice v).waveSelect))

/-- What voice v's next advance adds to `left_sum`. -/
def State.leftAdd (s : State) (v : Nat) : BitVec 20 :=
  match s.cfg.stereoMode with
  | .disabled => product (s.sampleAt v) (s.voice v).gain.left
  | .independent => product (s.sampleAt v) (s.voice v).gain.left
  | .fixedAssignment => if v % 2 = 0 then product (s.sampleAt v) (s.voice v).gain.left else 0

/-- What voice v's next advance adds to `right_sum`. -/
def State.rightAdd (s : State) (v : Nat) : BitVec 20 :=
  match s.cfg.stereoMode with
  | .disabled => 0
  | .independent => product (s.sampleAt v) (s.voice v).gain.right
  | .fixedAssignment => if v % 2 = 0 then 0 else product (s.sampleAt v) (s.voice v).gain.left

theorem leftAdd_le (s : State) (v : Nat) : (s.leftAdd v).toNat ≤ 65025 := by
  unfold State.leftAdd
  split
  · exact product_le _ _
  · exact product_le _ _
  · split
    · exact product_le _ _
    · simp

theorem rightAdd_le (s : State) (v : Nat) : (s.rightAdd v).toNat ≤ 65025 := by
  unfold State.rightAdd
  split
  · simp
  · exact product_le _ _
  · split
    · simp
    · exact product_le _ _

theorem rightAdd_disabled {s : State} (h : s.cfg.stereoMode = .disabled) (v : Nat) : s.rightAdd v = 0 := by
  simp [State.rightAdd, h]

/-- The change an advance makes to its voice. -/
def Voice.step (o : Voice) : Voice := { o with phase := o.phase + o.tune }

/-- An advance of a voice the block has. -/
theorem State.advance_eq {s : State} {v : Nat} (hv : v < s.voices.length) :
    s.advance v =
      { s.modifyVoice v Voice.step with leftSum := s.leftSum + s.leftAdd v, rightSum := s.rightSum + s.rightAdd v } := by
  have hp : s.setPhase v ((s.voice v).phase + (s.voice v).tune) = s.modifyVoice v Voice.step :=
    State.modifyVoice_congr s v (fun _ => rfl)
  have ho : (s.modifyVoice v Voice.step).voice v = (s.voice v).step := by
    rw [State.voice_modifyVoice, if_pos ⟨rfl, hv⟩]
  unfold State.advance
  simp only [hp, ho]
  have hs : (s.modifyVoice v Voice.step).readByte (boundAddress (s.modifyVoice v Voice.step).cfg
      (foldAddress (s.voice v).step.phase (s.voice v).step.waveMask (s.voice v).step.waveSelect)) = s.sampleAt v := rfl
  rw [hs]
  unfold State.mix
  simp only [State.modifyVoice_cfg, State.leftAdd, State.rightAdd]
  cases hm : s.cfg.stereoMode with
  | disabled => simp only [ho, State.addLeft, add_zero]; rfl
  | independent =>
    have hc : ((s.modifyVoice v Voice.step).addLeft (product (s.sampleAt v) (s.voice v).step.gain.left)).voice v
        = (s.voice v).step := by rw [← ho]; rfl
    simp only [ho, hc]
    rfl
  | fixedAssignment =>
    simp only [ho]
    split <;> simp only [State.addLeft, State.addRight, add_zero] <;> rfl

/-- An advance of one voice leaves what another voice will add. -/
theorem State.adds_of_advance {s : State} {v u : Nat} (hv : v < s.voices.length) (hne : u ≠ v) :
    (s.advance v).leftAdd u = s.leftAdd u ∧ (s.advance v).rightAdd u = s.rightAdd u := by
  have hvo : (s.advance v).voice u = s.voice u := by
    rw [State.advance_eq hv]
    show (s.modifyVoice v Voice.step).voice u = s.voice u
    rw [State.voice_modifyVoice, if_neg (fun h => hne h.1)]
  have hcfg : (s.advance v).cfg = s.cfg := by rw [State.advance_eq hv]; rfl
  have hw : (s.advance v).wavetable = s.wavetable := by rw [State.advance_eq hv]; rfl
  have hsm : (s.advance v).sampleAt u = s.sampleAt u := by
    unfold State.sampleAt State.readByte
    rw [hvo, hcfg, hw]
  unfold State.leftAdd State.rightAdd
  rw [hcfg, hvo, hsm]
  exact ⟨rfl, rfl⟩

/-- How many voices a processed TICK advances, and why they all exist. -/
theorem State.Inv.pair_fits {s : State} (h : s.Inv) : s.rr + voicesPerTick s.cfg.stereoMode ≤ s.cfg.voiceCount := by
  have hr := h.rrBelow
  have he := h.rrEven
  have hv := h.voices_even
  cases hm : s.cfg.stereoMode with
  | disabled => simp only [voicesPerTick]; omega
  | independent =>
    have := he (by simp [hm])
    simp only [voicesPerTick]; omega
  | fixedAssignment =>
    have := he (by simp [hm])
    simp only [voicesPerTick]; omega

/-- The two sums and the voices after the advances of a processed TICK. -/
theorem State.advanceFrom_sums {s : State} (first k : Nat) (hk : first + k ≤ s.voices.length) :
    ∃ vs, s.advanceFrom first k =
        { s with
          voices := vs,
          leftSum := s.leftSum + ((List.range k).map (fun j => s.leftAdd (first + j))).sum,
          rightSum := s.rightSum + ((List.range k).map (fun j => s.rightAdd (first + j))).sum }
      ∧ vs.length = s.voices.length
      ∧ ∀ n : Nat, vs[n]? = (s.voices[n]?).map (fun o => if first ≤ n ∧ n < first + k then o.step else o) := by
  induction k generalizing s first with
  | zero =>
    refine ⟨s.voices, by simp [State.advanceFrom], rfl, fun n => ?_⟩
    have hn : ¬ (first ≤ n ∧ n < first + 0) := by omega
    simp only [if_neg hn]
    cases s.voices[n]? <;> rfl
  | succ k ih =>
    have hv : first < s.voices.length := by omega
    have hadv := State.advance_eq (s := s) hv
    have hlen : (s.advance first).voices.length = s.voices.length := by rw [hadv]; simp
    obtain ⟨vs, hvs, hl, hn⟩ := ih (s := s.advance first) (first + 1) (by rw [hlen]; omega)
    refine ⟨vs, ?_, by rw [hl, hlen], ?_⟩
    · have hleft : ∀ j, (s.advance first).leftAdd (first + 1 + j) = s.leftAdd (first + 1 + j) :=
        fun j => (State.adds_of_advance hv (by omega)).1
      have hright : ∀ j, (s.advance first).rightAdd (first + 1 + j) = s.rightAdd (first + 1 + j) :=
        fun j => (State.adds_of_advance hv (by omega)).2
      simp only [State.advanceFrom]
      rw [hvs]
      simp only [hleft, hright]
      rw [hadv]
      simp only [List.range_succ_eq_map, List.map_cons, List.map_map, List.sum_cons, Nat.add_zero,
        State.modifyVoice, State.mk.injEq, true_and, and_true]
      have hf : ∀ g : Nat → BitVec 20,
          List.map ((fun j => g (first + j)) ∘ Nat.succ) (List.range k) = List.map (fun j => g (first + 1 + j)) (List.range k) := by
        intro g
        apply List.map_congr_left
        intro j _
        show g (first + (j + 1)) = g (first + 1 + j)
        rw [show first + (j + 1) = first + 1 + j by omega]
      rw [hf, hf]
      exact ⟨BitVec.add_assoc _ _ _, BitVec.add_assoc _ _ _⟩
    · intro n
      rw [hn n, hadv]
      simp only [State.modifyVoice_voices, List.getElem?_modify]
      cases s.voices[n]? with
      | none => rfl
      | some o =>
        simp only [Option.map_eq_map, Option.map_some, Option.some.injEq]
        by_cases h1 : first = n
        · subst h1
          rw [if_neg (by omega), if_pos rfl, if_pos (by omega)]
        · by_cases h2 : first + 1 ≤ n ∧ n < first + 1 + k
          · rw [if_pos h2, if_neg h1, if_pos (by omega)]
          · rw [if_neg h2, if_neg h1, if_neg (by omega)]

/-- A list of at most k numbers of at most 65025 each sums exactly, where there is room. -/
theorem sum_toNat (l : List (BitVec 20)) (x : BitVec 20) (n : Nat) (hx : x.toNat ≤ n) (hl : ∀ y ∈ l, y.toNat ≤ 65025)
    (hn : n + l.length * 65025 < 2 ^ 20) :
    (x + l.sum).toNat = x.toNat + (l.map BitVec.toNat).sum ∧ (x + l.sum).toNat ≤ n + l.length * 65025 := by
  induction l generalizing x n with
  | nil => simpa using hx
  | cons y l ih =>
    have hy := hl y List.mem_cons_self
    simp only [List.length_cons] at hn
    have hxy : (x + y).toNat = x.toNat + y.toNat := by
      rw [BitVec.toNat_add]
      exact Nat.mod_eq_of_lt (by omega)
    obtain ⟨h1, h2⟩ := ih (x + y) (n + 65025) (by omega) (fun z hz => hl z (List.mem_cons_of_mem _ hz)) (by omega)
    simp only [List.sum_cons, List.map_cons, List.length_cons]
    rw [← BitVec.add_assoc]
    constructor
    · rw [h1, hxy]; omega
    · omega

/-- A processed TICK keeps the invariant. -/
theorem inv_processTick {s : State} (h : s.Inv) : s.processTick.Inv := by
  have hfit := h.pair_fits
  have hten := h.voices_le_ten
  obtain ⟨vs, hvs, hl, hn⟩ := State.advanceFrom_sums (s := s) s.rr (voicesPerTick s.cfg.stereoMode)
    (by rw [h.voiceFile]; exact hfit)
  have hmul : (s.rr + voicesPerTick s.cfg.stereoMode) * 65025 < 2 ^ 20 := by omega
  have hL := sum_toNat ((List.range (voicesPerTick s.cfg.stereoMode)).map (fun j => s.leftAdd (s.rr + j))) s.leftSum
    (s.rr * 65025) h.leftBound (by
      intro y hy
      obtain ⟨j, _, rfl⟩ := List.mem_map.mp hy
      exact leftAdd_le _ _) (by rw [List.length_map, List.length_range, ← Nat.add_mul]; exact hmul)
  have hR := sum_toNat ((List.range (voicesPerTick s.cfg.stereoMode)).map (fun j => s.rightAdd (s.rr + j))) s.rightSum
    (s.rr * 65025) h.rightBound (by
      intro y hy
      obtain ⟨j, _, rfl⟩ := List.mem_map.mp hy
      exact rightAdd_le _ _) (by rw [List.length_map, List.length_range, ← Nat.add_mul]; exact hmul)
  simp only [List.length_map, List.length_range] at hL hR
  have hgains : ∀ o ∈ vs, o.gain.fits s.cfg.stereoMode := by
    intro o ho
    obtain ⟨n, hn'⟩ := List.mem_iff_getElem?.mp ho
    rw [hn n] at hn'
    cases hv : s.voices[n]? with
    | none => simp [hv] at hn'
    | some q =>
      simp only [hv, Option.map_some, Option.some.injEq] at hn'
      have hq := h.gains q (List.mem_of_getElem? hv)
      subst hn'
      split <;> exact hq
  have hzero : s.cfg.stereoMode = .disabled →
      s.rightSum + ((List.range (voicesPerTick s.cfg.stereoMode)).map (fun j => s.rightAdd (s.rr + j))).sum = 0 := by
    intro hm
    simp [hm, voicesPerTick, rightAdd_disabled hm, (h.rightAbsent hm).1]
  unfold State.processTick
  simp only [hvs]
  split
  · next hlast =>
    exact { h with
      voiceFile := hl.trans h.voiceFile
      gains := hgains
      rrBelow := by have := h.rrBelow; show 0 < s.cfg.voiceCount; omega
      rrEven := fun _ => rfl
      leftBound := by show (0#20).toNat ≤ 0 * 65025; simp
      rightBound := by show (0#20).toNat ≤ 0 * 65025; simp
      rightAbsent := fun hm => ⟨rfl, by
        have hm' : s.cfg.stereoMode = .disabled := hm
        show (if s.cfg.stereoMode = .disabled then s.outRight else _) = 0
        rw [if_pos hm']; exact (h.rightAbsent hm').2⟩ }
  · next hlast =>
    exact { h with
      voiceFile := hl.trans h.voiceFile
      gains := hgains
      rrBelow := by show s.rr + voicesPerTick s.cfg.stereoMode < s.cfg.voiceCount; omega
      rrEven := by
        intro hm
        have := h.rrEven hm
        show (s.rr + voicesPerTick s.cfg.stereoMode) % 2 = 0
        cases hs : s.cfg.stereoMode with
        | disabled => exact absurd hs hm
        | independent => simp only [voicesPerTick]; omega
        | fixedAssignment => simp only [voicesPerTick]; omega
      leftBound := by
        show _ ≤ (s.rr + voicesPerTick s.cfg.stereoMode) * 65025
        exact hL.2.trans (by omega)
      rightBound := by
        show _ ≤ (s.rr + voicesPerTick s.cfg.stereoMode) * 65025
        exact hR.2.trans (by omega)
      rightAbsent := fun hm => ⟨hzero hm, (h.rightAbsent hm).2⟩ }

end Sys2Proof.Machine
end

