-- ==== Sys2Proof/Laws/HostReference.lean ====
section
/-! SUPPORT. The host-side reference functions at every real pitch (41_frequency_conversion R140, R142, R143), and that
the machine's own, at whole semitones, are these. They are no part of the block (00_scope R5). -/

namespace Sys2Proof.Machine

/-- The rational a `Ratio` stands for, as a real. -/
noncomputable def Ratio.toReal (r : Ratio) : ℝ := (r.num : ℝ) / (r.den : ℝ)

/-- `getFrequency(pitch) = 440 × 1.059463^pitch` for a real pitch (41 R140). -/
noncomputable def getFrequencyReal (pitch : ℝ) : ℝ := 440 * (1.059463 : ℝ) ^ pitch

/-- `tuning(frequency)` for a real frequency (41 R142). -/
noncomputable def tuningReal (cfg : Config) (frequency : ℝ) : BitVec 16 :=
  fitTune cfg ⌊frequency / ((Ratio.toReal cfg.timerBaseRate / cfg.voiceCount) / 2 ^ 14)⌋₊

/-- `pitchToFnumber(pitch) = tuning(getFrequency(pitch))` for a real pitch (41 R143). -/
noncomputable def pitchToFnumberReal (cfg : Config) (pitch : ℝ) : BitVec 16 := tuningReal cfg (getFrequencyReal pitch)

/-- At whole semitones the machine's `getFrequency` is the reference. -/
theorem getFrequency_toReal (p : Int) : Ratio.toReal (getFrequency p) = getFrequencyReal p := by
  unfold getFrequencyReal Ratio.toReal
  rw [Real.rpow_intCast]
  cases p with
  | ofNat p =>
    simp only [getFrequency, Int.ofNat_eq_natCast, zpow_natCast]
    push_cast
    rw [mul_div_assoc, ← div_pow]
    norm_num
  | negSucc p =>
    simp only [getFrequency, zpow_negSucc]
    push_cast
    rw [mul_div_assoc, ← div_pow, ← inv_pow]
    norm_num

/-- Higher pitches have higher frequencies. -/
theorem getFrequencyReal_strictMono : StrictMono getFrequencyReal := by
  intro p q h
  unfold getFrequencyReal
  have := Real.rpow_lt_rpow_of_exponent_lt (x := (1.059463 : ℝ)) (by norm_num) h
  linarith

/-- Pitch 0 is the reference tone. -/
theorem getFrequencyReal_zero : getFrequencyReal 0 = 440 := by
  unfold getFrequencyReal
  rw [Real.rpow_zero, mul_one]

/-- On the rationals the machine's `tuning` is the reference. -/
theorem tuning_toReal (cfg : Config) (frequency : Ratio) :
    tuning cfg frequency = tuningReal cfg (Ratio.toReal frequency) := by
  unfold tuning tuningReal
  congr 1
  unfold tuningFloor Ratio.toReal
  rw [← Nat.floor_div_eq_div (K := ℝ)]
  congr 1
  push_cast
  field_simp
  ring

end Sys2Proof.Machine
end

