-- ==== Sys2Proof/Laws/PerInstr.lean ====
section
/-! SUPPORT. A statement about every event, proved event by event: its word is of its row of the opcode table. -/

namespace Sys2Proof.Laws.RowBits

/-- The word of a well-formed event has its table row's bits under the row's mask (opcode_table.json). -/
def Statement (i : Instr) : Prop := i.wellFormed = true → encode i &&& i.row.mask = i.row.bits

theorem regwSweep0 (d : Byte) : Statement (.regwSweep0 d) := fun _ => regwWord_and 0x10 0xFF d

theorem regwLenduty0 (d : Byte) : Statement (.regwLenduty0 d) := fun _ => regwWord_and 0x11 0xFF d

theorem regwEnv0 (d : Byte) : Statement (.regwEnv0 d) := fun _ => regwWord_and 0x12 0xFF d

theorem regwFlo0 (d : Byte) : Statement (.regwFlo0 d) := fun _ => regwWord_and 0x13 0xFF d

theorem regwFhi0 (d : Byte) : Statement (.regwFhi0 d) := fun _ => regwWord_and 0x14 0xFF d

theorem regwLenduty1 (d : Byte) : Statement (.regwLenduty1 d) := fun _ => regwWord_and 0x16 0xFF d

theorem regwEnv1 (d : Byte) : Statement (.regwEnv1 d) := fun _ => regwWord_and 0x17 0xFF d

theorem regwFlo1 (d : Byte) : Statement (.regwFlo1 d) := fun _ => regwWord_and 0x18 0xFF d

theorem regwFhi1 (d : Byte) : Statement (.regwFhi1 d) := fun _ => regwWord_and 0x19 0xFF d

theorem regwLen2 (d : Byte) : Statement (.regwLen2 d) := fun _ => regwWord_and 0x1B 0xFF d

theorem regwLvl2 (d : Byte) : Statement (.regwLvl2 d) := fun _ => regwWord_and 0x1C 0xFF d

theorem regwFlo2 (d : Byte) : Statement (.regwFlo2 d) := fun _ => regwWord_and 0x1D 0xFF d

theorem regwFhi2 (d : Byte) : Statement (.regwFhi2 d) := fun _ => regwWord_and 0x1E 0xFF d

theorem regwPat (k : BitVec 4) (d : Byte) : Statement (.regwPat k d) := by
  intro _
  refine (regwWord_and (0x3#4 ++ k) 0xF0#8 d).trans ?_
  have h : ∀ k : BitVec 4, (0x3#4 ++ k : Byte) &&& 0xF0#8 = 0x30#8 := by decide
  rw [h]
  rfl

theorem regwIgnored (reg d : Byte) : Statement (.regwIgnored reg d) := by
  intro _
  refine (regwWord_and reg 0x00 d).trans ?_
  rw [show reg &&& (0x00 : Byte) = 0x00 by simp]
  rfl

theorem tick : Statement .tick := fun _ => rfl

theorem fclk : Statement .fclk := fun _ => rfl

theorem vpokePhase (v : BitVec 4) (x : BitVec 16) : Statement (.vpokePhase v x) := fun _ => voiceWord_and 0x3 v 0 7 x

theorem vpokeTune (v : BitVec 4) (x : BitVec 16) : Statement (.vpokeTune v x) := fun _ => voiceWord_and 0x3 v 1 7 x

theorem vpokeSel (v : BitVec 4) (x : Byte) : Statement (.vpokeSel v x) := fun _ => voiceWord_and 0x3 v 2 7 (0x00#8 ++ x)

theorem vpokeMask (v : BitVec 4) (x : Byte) : Statement (.vpokeMask v x) := fun _ => voiceWord_and 0x3 v 3 7 (0x00#8 ++ x)

theorem vpokeAmpl (v : BitVec 4) (x : Byte) : Statement (.vpokeAmpl v x) := fun _ => voiceWord_and 0x3 v 4 7 (0x00#8 ++ x)

theorem vpokeAmpr (v : BitVec 4) (x : Byte) : Statement (.vpokeAmpr v x) := fun _ => voiceWord_and 0x3 v 5 7 (0x00#8 ++ x)

theorem vpokeBadfield (v : BitVec 4) (f : BitVec 3) (x : BitVec 16) : Statement (.vpokeBadfield v f x) := by
  intro h
  have hf : f = 6 ∨ f = 7 := by simpa [Instr.wellFormed] using h
  refine (voiceWord_and 0x3 v f 6 x).trans ?_
  rcases hf with rfl | rfl <;> rfl

theorem vpeekPhase (v : BitVec 4) : Statement (.vpeekPhase v) := fun _ => voiceWord_and 0x4 v 0 7 0

theorem vpeekTune (v : BitVec 4) : Statement (.vpeekTune v) := fun _ => voiceWord_and 0x4 v 1 7 0

theorem vpeekSel (v : BitVec 4) : Statement (.vpeekSel v) := fun _ => voiceWord_and 0x4 v 2 7 0

theorem vpeekMask (v : BitVec 4) : Statement (.vpeekMask v) := fun _ => voiceWord_and 0x4 v 3 7 0

theorem vpeekAmpl (v : BitVec 4) : Statement (.vpeekAmpl v) := fun _ => voiceWord_and 0x4 v 4 7 0

theorem vpeekAmpr (v : BitVec 4) : Statement (.vpeekAmpr v) := fun _ => voiceWord_and 0x4 v 5 7 0

theorem vpeekBadfield (v : BitVec 4) (f : BitVec 3) : Statement (.vpeekBadfield v f) := by
  intro h
  have hf : f = 6 ∨ f = 7 := by simpa [Instr.wellFormed] using h
  refine (voiceWord_and 0x4 v f 6 0).trans ?_
  rcases hf with rfl | rfl <;> rfl

theorem wtwrite (a x : Byte) : Statement (.wtwrite a x) := fun _ => wavetableWord_and 0x5 a x

theorem wtread (a : Byte) : Statement (.wtread a) := fun _ => wavetableWord_and 0x6 a 0

theorem oread : Statement .oread := fun _ => rfl

theorem mread : Statement .mread := fun _ => rfl

theorem initEvent : Statement .initEvent := fun _ => rfl

theorem beginEvent : Statement .beginEvent := fun _ => rfl

theorem reservedB : Statement .reservedB := fun _ => rfl

theorem reservedC : Statement .reservedC := fun _ => rfl

theorem reservedD : Statement .reservedD := fun _ => rfl

theorem reservedE : Statement .reservedE := fun _ => rfl

theorem reservedF : Statement .reservedF := fun _ => rfl

end Sys2Proof.Laws.RowBits
end

