-- ==== Sys2Proof/Tests/Slice0.lean ====
section
/-! SUPPORT. Tests. Expected values come from spec/95_test_vectors.md (L1-1, TK1, RG1, FS1, HP1, RF1, P1 and so on) and from
the examples in the rules; then, for every statement that has hypotheses, a witness that meets them. -/

open Sys2Proof Sys2Proof.Machine

namespace Sys2Proof.Tests

/-! ## Helpers -/

/-- The vectors' configuration under a stereo mode, a divider and a voice count. -/
def vectors (mode : StereoMode) (divider : SampleRateDivider) (voices : Nat) : Config :=
  { Config.ofExamples with stereoMode := mode, sampleRateDivider := divider, voiceCount := voices }

/-- A block without a register interface and with a small table. -/
def small : Config :=
  { Config.ofExamples with voiceCount := 2, wavetableSize := 128, registerInterpreter := .absent }

/-- After INIT, eight voices, Disabled. -/
def s8 : State := State.initial (vectors .disabled .full 8)

/-- The state after an event that completes. -/
def after (i : Instr) (s : State) : State :=
  match exec i s with
  | .next t => t
  | .fault _ => s
  | .refused _ => s

/-- Why an event is refused. -/
def refusal (i : Instr) (s : State) : Option Refusal :=
  match exec i s with
  | .next _ => none
  | .fault _ => none
  | .refused r => some r

/-- Every voice set to one voice. -/
def uniform (s : State) (o : Voice) : State := { s with voices := s.voices.map (fun _ => o) }

/-! ## Well-formedness: each check refuses an ill-formed term -/

theorem test_wf_ignored_named_register : (Instr.regwIgnored 0x10 0x00).wellFormed = false := by decide
theorem test_wf_ignored_last_named_register : (Instr.regwIgnored 0x1E 0x00).wellFormed = false := by decide
theorem test_wf_ignored_pattern_register :
    (Instr.regwIgnored 0x30 0x00).wellFormed = false ∧ (Instr.regwIgnored 0x3F 0x00).wellFormed = false := by decide
theorem test_wf_ignored_accepts :
    (Instr.regwIgnored 0x15 0x00).wellFormed = true ∧ (Instr.regwIgnored 0x40 0x00).wellFormed = true := by decide
theorem test_wf_vpoke_badfield :
    (Instr.vpokeBadfield 0 5 0).wellFormed = false ∧ (Instr.vpokeBadfield 0 6 0).wellFormed = true := by decide
theorem test_wf_vpeek_badfield :
    (Instr.vpeekBadfield 0 0).wellFormed = false ∧ (Instr.vpeekBadfield 0 7).wellFormed = true := by decide

/-! ## Decoding: one word of every row, written from 30_encoding R82 to R88 -/

theorem test_decode_regw_channel0 :
    decode 0x001000AB = .regwSweep0 0xAB ∧ decode 0x00110080 = .regwLenduty0 0x80 ∧ decode 0x001200F3 = .regwEnv0 0xF3
      ∧ decode 0x00130083 = .regwFlo0 0x83 ∧ decode 0x00140087 = .regwFhi0 0x87 := by decide
theorem test_decode_regw_channel1 :
    decode 0x0016003F = .regwLenduty1 0x3F ∧ decode 0x00170019 = .regwEnv1 0x19 ∧ decode 0x00180000 = .regwFlo1 0x00
      ∧ decode 0x001900C4 = .regwFhi1 0xC4 := by decide
theorem test_decode_regw_channel2 :
    decode 0x001B00FF = .regwLen2 0xFF ∧ decode 0x001C0020 = .regwLvl2 0x20 ∧ decode 0x001D00D6 = .regwFlo2 0xD6
      ∧ decode 0x001E0086 = .regwFhi2 0x86 ∧ decode 0x0035009C = .regwPat 5 0x9C ∧ decode 0x003F00A5 = .regwPat 15 0xA5 := by
  decide
/-- The gaps of the map (30_encoding R91) and the bits REGW ignores (RG14). -/
theorem test_decode_regw_ignored :
    decode 0x00240077 = .regwIgnored 0x24 0x77 ∧ decode 0x001500FF = .regwIgnored 0x15 0xFF
      ∧ decode 0x001A0080 = .regwIgnored 0x1A 0x80 ∧ decode 0x001F0000 = .regwIgnored 0x1F 0x00
      ∧ decode 0x00400012 = .regwIgnored 0x40 0x12 ∧ decode 0x0F141287 = .regwFhi0 0x87 := by decide
theorem test_decode_clocks :
    decode 0x10000000 = .tick ∧ decode 0x1FFFFFFF = .tick ∧ decode 0x20000000 = .fclk ∧ decode 0x20000001 = .fclk := by
  decide
theorem test_decode_vpoke :
    decode 0x3000FFF0 = .vpokePhase 0 0xFFF0 ∧ decode 0x33101234 = .vpokeTune 3 0x1234
      ∧ decode 0x30201234 = .vpokeSel 0 0x34 ∧ decode 0x31300001 = .vpokeMask 1 0x01 ∧ decode 0x314000FF = .vpokeAmpl 1 0xFF
      ∧ decode 0x30500011 = .vpokeAmpr 0 0x11 ∧ decode 0x3A600000 = .vpokeBadfield 10 6 0
      ∧ decode 0x30FF0001 = .vpokeBadfield 0 7 1 := by decide
theorem test_decode_vpeek :
    decode 0x41000000 = .vpeekPhase 1 ∧ decode 0x40100000 = .vpeekTune 0 ∧ decode 0x40200000 = .vpeekSel 0
      ∧ decode 0x41300000 = .vpeekMask 1 ∧ decode 0x40400000 = .vpeekAmpl 0 ∧ decode 0x40500000 = .vpeekAmpr 0
      ∧ decode 0x40600000 = .vpeekBadfield 0 6 ∧ decode 0x4070FFFF = .vpeekBadfield 0 7 := by decide
theorem test_decode_ports :
    decode 0x504000AB = .wtwrite 0x40 0xAB ∧ decode 0x60C00000 = .wtread 0xC0 ∧ decode 0x70000000 = .oread
      ∧ decode 0x80000000 = .mread ∧ decode 0x90000000 = .initEvent ∧ decode 0xA0000000 = .beginEvent := by decide
theorem test_decode_reserved :
    decode 0xB0000000 = .reservedB ∧ decode 0xC0000000 = .reservedC ∧ decode 0xD0000000 = .reservedD
      ∧ decode 0xE0000000 = .reservedE ∧ decode 0xF0000000 = .reservedF := by decide
theorem test_decode_bits :
    decodeTableWord 32 0x00140087 = some (.regwFhi0 0x87) ∧ decodeBits 32 (2 ^ 32) = .error .notOneEventWord
      ∧ decodeBits 16 0x0014 = .error .notOneEventWord := ⟨rfl, rfl, rfl⟩

/-! ## The agents of the events (30_encoding R81, 60_exceptions R260) -/

theorem test_agents :
    (decode 0x10000000).agent = some .sampleTick ∧ (decode 0x20000000).agent = some .frameClock
      ∧ (decode 0x90000000).agent = some .host ∧ (decode 0xB0000000).agent = none := by decide

/-! ## The register interface -/

/-- RG10. -/
theorem test_sweep0 :
    (after (.regwSweep0 0xAB) s8).sweep = { Sweep.initial with period := 2, negate := true, shift := 3 } := by decide
/-- RG4. -/
theorem test_lenduty0 :
    ((after (.regwLenduty0 0x40) s8).voice 0).waveSelect = 0xA0 ∧ (after (.regwLenduty0 0x40) s8).len0 = ⟨false, 0, 64⟩ := by
  decide
/-- The example of 42 R155. -/
theorem test_env0 : (after (.regwEnv0 0xF3) s8).env0 = ⟨0xF0, 3, .decrease, 3⟩ := by decide
theorem test_flo0 : (after (.regwFlo0 0x83) { s8 with fnum0 := 0x7FF }).fnum0 = 0x783 := by decide

/-- The state of L1-8 before its trigger. -/
def beforeTrigger : State :=
  { s8 with
    fnum0 := 0x083, env0 := ⟨0xF0, 3, .decrease, 1⟩, sweep := { Sweep.initial with period := 2, counter := 1 },
    voices := s8.voices.map (fun o => { o with phase := 0x1234, tune := 5 }) }

/-- L1-8: amplitude, phase, tune, envelope counter and sweep of a trigger. -/
theorem test_fhi0_trigger :
    let t := after (.regwFhi0 0x87) beforeTrigger
    t.fnum0 = 0x783 ∧ t.voice 0 = { phase := 0, tune := 1099, waveSelect := 0, waveMask := 0, gain := .shared 0xF0 }
      ∧ t.env0.counter = 3 ∧ t.sweep = ⟨2, false, 0, 0x783, true, 2⟩ ∧ t.voice 1 = beforeTrigger.voice 1 := by decide
/-- RG3: no trigger bit latches and mutes, and leaves the tune. -/
theorem test_fhi0_note_off :
    let t := after (.regwFhi0 0x45) { beforeTrigger with fnum0 := 0x383 }
    t.fnum0 = 0x583 ∧ (t.voice 0).tune = 5 ∧ (t.voice 0).gain = .shared 0 ∧ t.len0.enabled = true := by decide
/-- RG5. -/
theorem test_lenduty1 :
    ((after (.regwLenduty1 0x3F) s8).voice 1).waveSelect = 0x80 ∧ (after (.regwLenduty1 0x3F) s8).len1 = ⟨false, 63, 1⟩ := by
  decide
/-- The example of 42 R160. -/
theorem test_env1 : (after (.regwEnv1 0x19) s8).env1 = ⟨0x10, 1, .increase, 1⟩ := by decide
/-- The example of 42 R161. -/
theorem test_flo1 : (after (.regwFlo1 0x00) { s8 with fnum1 := 0x4FF }).fnum1 = 0x400 := by decide
/-- RG11. -/
theorem test_fhi1 :
    let t := after (.regwFhi1 0xC4) s8
    t.fnum1 = 0x400 ∧ t.len1.enabled = true ∧ (t.voice 1).tune = 134 ∧ t.sweep = s8.sweep := by decide
/-- RG6 and the example of 42 R163. -/
theorem test_len2 :
    (after (.regwLen2 0x00) s8).len2.counter = 256 ∧ (after (.regwLen2 0xFF) s8).len2 = ⟨false, 0xFF, 1⟩ := by decide
/-- RG7. -/
theorem test_lvl2 :
    (after (.regwLvl2 0x20) s8).waveLevel = 0xF0 ∧ (after (.regwLvl2 0x40) s8).waveLevel = 0x78
      ∧ (after (.regwLvl2 0x60) s8).waveLevel = 0x3C ∧ (after (.regwLvl2 0x9F) s8).waveLevel = 0x00 := by decide
/-- The example of 42 R165. -/
theorem test_flo2 : (after (.regwFlo2 0xD6) s8).fnum2 = 0x0D6 := by decide
/-- RG12. -/
theorem test_fhi2 :
    let t := after (.regwFhi2 0x86) { s8 with fnum2 := 0x0D6, waveLevel := 0xF0 }
    t.fnum2 = 0x6D6 ∧ (t.voice 2).gain = .shared 0xF0 ∧ (t.voice 2).tune = 461 := by decide
/-- RG9 and RG8. -/
theorem test_pat :
    (after (.regwPat 5 0x9C) s8).wavetable = [(0x4A, 0x09), (0x4B, 0x0C)]
      ∧ (after (.regwPat 15 0xA5) s8).readByte 0x5F = 0x05 := by decide
/-- RG13. -/
theorem test_ignored : after (.regwIgnored 0x24 0x77) s8 = s8 := by decide

/-! ## TICK -/

/-- L1-2: the phase wraps. TK4: the address is an OR. TK3: it is bounded to a 128-byte table. -/
theorem test_tick_advances :
    ((after .tick (uniform s8 { Voice.initial .disabled with phase := 0xFFF0, tune := 0x20 })).voice 0).phase = 0x0010
      ∧ (after .tick (uniform s8
          { Voice.initial .disabled with phase := 0x2A00, waveMask := 0x3F, waveSelect := 0x20, gain := .shared 1 })).leftSum
        = 0x30
      ∧ (after .tick { uniform (State.initial small) { Voice.initial .disabled with waveSelect := 0x85, gain := .shared 1 } with
          wavetable := [(0x05, 0x77)] }).leftSum = 0x77 := by decide

/-- L1-5a and L1-5c before their last TICK: four voices, every sample 0xC0. -/
def beforeRoundEnd (mode : StereoMode) (rr : Nat) (left right : BitVec 20) (gain : Gain) : State :=
  { uniform (State.initial (vectors mode .full 4)) { Voice.initial mode with waveSelect := 0x60, gain := gain } with
    wavetable := [(0x60, 0xC0)], rr := rr, leftSum := left, rightSum := right }

/-- L1-5a: the emitted byte wraps and the sums clear. L1-5b: both sides under Independent. -/
theorem test_tick_completes :
    (after .tick (beforeRoundEnd .disabled 3 146880 0 (.shared 0xFF))).response = .outputLeft 0xFD
      ∧ (after .tick (beforeRoundEnd .disabled 3 146880 0 (.shared 0xFF))).leftSum = 0
      ∧ (after .tick (beforeRoundEnd .independent 2 49152 24576 (.separate 0x80 0x40))).response = .outputs 0x80 0xC0
      ∧ (after .tick (beforeRoundEnd .fixedAssignment 2 24576 24576 (.shared 0x80))).response = .outputs 0xC0 0xC0 := by
  decide

/-! ## FCLK -/

/-- FS2 at its seventh FCLK, FS4's clamp, and FS5: an amplitude of 0 is not stepped. -/
theorem test_fclk_envelope :
    let at7 : Envelope → Byte → State := fun e a =>
      { uniform s8 { Voice.initial .disabled with gain := .shared a } with frameStep := 6, env0 := e }
    ((after .fclk (at7 ⟨0xF0, 1, .decrease, 1⟩ 0xF0)).voice 0).gain = .shared 0xEF
      ∧ (after .fclk (at7 ⟨0xF0, 1, .decrease, 1⟩ 0xF0)).env0.counter = 1
      ∧ ((after .fclk (at7 ⟨0xF0, 1, .increase, 1⟩ 0xFF)).voice 0).gain = .shared 0xFF
      ∧ ((after .fclk (at7 ⟨0x00, 1, .increase, 1⟩ 0x00)).voice 0).gain = .shared 0 := by decide

/-- FS6's commit, FS7's overflow and L1-6b's mute, each on its FCLK to step 2. -/
theorem test_fclk_sweep_and_length :
    let at2 : Sweep → LengthCounter → State := fun w l =>
      { uniform s8 { Voice.initial .disabled with tune := 134, gain := .shared 0xF0 } with
        frameStep := 1, sweep := w, len0 := l, fnum0 := w.shadowFrequency }
    (after .fclk (at2 ⟨1, false, 1, 0x400, true, 1⟩ ⟨false, 0, 0⟩)).fnum0 = 0x600
      ∧ ((after .fclk (at2 ⟨1, false, 1, 0x400, true, 1⟩ ⟨false, 0, 0⟩)).voice 0).tune = 268
      ∧ ((after .fclk (at2 ⟨1, false, 1, 0x600, true, 1⟩ ⟨false, 0, 0⟩)).voice 0).gain = .shared 0
      ∧ (after .fclk (at2 ⟨1, false, 1, 0x600, true, 1⟩ ⟨false, 0, 0⟩)).sweep = ⟨1, false, 1, 0x600, false, 1⟩
      ∧ ((after .fclk (at2 Sweep.initial ⟨true, 63, 1⟩)).voice 0).gain = .shared 0
      ∧ (after .fclk (at2 Sweep.initial ⟨true, 63, 1⟩)).len0.counter = 0 := by decide

/-! ## Host ports -/

theorem test_vpoke_phase : ((after (.vpokePhase 7 0xFFF0) s8).voice 7).phase = 0xFFF0 := by decide
/-- HP5. -/
theorem test_vpoke_tune : ((after (.vpokeTune 3 0x1234) s8).voice 3).tune = 0x1234 := by decide
/-- HP4: only value[7:0] is used. -/
theorem test_vpoke_sel : ((after (decode 0x30201234) s8).voice 0).waveSelect = 0x34 := by decide
theorem test_vpoke_mask : ((after (.vpokeMask 1 0x1F) s8).voice 1).waveMask = 0x1F := by decide
/-- HP1 and HP3. -/
theorem test_vpoke_ampl :
    ((after (.vpokeAmpl 1 0x81) (State.initial (vectors .fixedAssignment .full 4))).voice 1).gain.right = 0x81
      ∧ ((after (.vpokeAmpl 0 0x80) (State.initial (vectors .independent .full 4))).voice 0).gain = .separate 0x80 0 := by
  decide
/-- HP2. -/
theorem test_vpoke_ampr :
    ((after (.vpokeAmpr 1 0x11) (State.initial (vectors .fixedAssignment .full 4))).voice 1).gain.left = 0x11
      ∧ ((after (.vpokeAmpr 0 0x11) (State.initial (vectors .independent .full 4))).voice 0).gain = .separate 0 0x11 := by
  decide

/-- A voice whose fields all differ. -/
def distinct : State :=
  uniform (State.initial (vectors .independent .full 4)) ⟨0x1122, 0x3344, 0x55, 0x66, .separate 0x77 0x88⟩

theorem test_vpeek_phase : (after (.vpeekPhase 3) distinct).response = .field 0x1122 := by decide
theorem test_vpeek_tune : (after (.vpeekTune 3) distinct).response = .field 0x3344 := by decide
theorem test_vpeek_sel : (after (.vpeekSel 3) distinct).response = .field 0x0055 := by decide
theorem test_vpeek_mask : (after (.vpeekMask 3) distinct).response = .field 0x0066 := by decide
theorem test_vpeek_ampl : (after (.vpeekAmpl 3) distinct).response = .field 0x0077 := by decide
theorem test_vpeek_ampr : (after (.vpeekAmpr 3) distinct).response = .field 0x0088 := by decide
/-- HP6; writing the reset content back empties the memory. -/
theorem test_wtwrite :
    (after (.wtwrite 0x60 0x7F) s8).wavetable = [(0x60, 0x7F)]
      ∧ (after (.wtwrite 0x60 0x00) { s8 with wavetable := [(0x60, 0x7F)] }).wavetable = [] := by decide
/-- L1-4's samples of the default sine. -/
theorem test_wtread :
    (after (.wtread 0x10) s8).response = .sample 0xF8 ∧ (after (.wtread 0x20) s8).response = .sample 0x80
      ∧ (after (.wtread 0x2F) s8).response = .sample 0x08 ∧ (after (.wtread 0xFF) s8).response = .sample 0x00 := by decide
/-- TK7. -/
theorem test_oread :
    (after .oread s8).response = .outputLeft 0
      ∧ (after .oread { distinct with outLeft := 0x0B, outRight := 0x9F }).response = .outputs 0x0B 0x9F := by decide
/-- HP10. -/
theorem test_mread : (after .mread { s8 with leftSum := 0x2000 }).response = .sums 0x2000 0 := by decide
/-- HP7, and the frame step and a cell erased. -/
theorem test_init : after .initEvent { s8 with frameStep := 5, wavetable := [(0x80, 0xFF)], rr := 3 } = s8 := rfl
/-- HP8 and HP9. -/
theorem test_begin :
    let t := after .beginEvent { s8 with wavetable := [(0x40, 0x55), (0x60, 0x55)] }
    t.readByte 0x60 = 0x55 ∧ t.readByte 0x40 = 0x00 ∧ t.readByte 0xC0 = 0xFF ∧ t.readByte 0x9B = 0x00
      ∧ t.readByte 0x9C = 0xFF ∧ (t.voice 0).waveSelect = 0x80 ∧ (t.voice 2).waveSelect = 0x40
      ∧ (t.voice 1).waveMask = 0x1F ∧ (t.voice 3).waveMask = 0x00 := by decide +kernel

/-! ## Refusals -/

/-- RF1 and RF2. -/
theorem test_refuse_no_interpreter :
    refusal (decode 0x00140087) (State.initial small) = some .noInterpreter
      ∧ refusal (decode 0x20000000) (State.initial small) = some .noInterpreter
      ∧ refusal (decode 0xA0000000) (State.initial small) = some .noInterpreter := by decide
/-- RF3, RF4 and RF8. -/
theorem test_refuse_voice_and_field :
    refusal (decode 0x32100001) (State.initial small) = some .noSuchVoice
      ∧ refusal (decode 0x40600000) s8 = some .noSuchField
      ∧ refusal (decode 0x3A600000) (State.initial small) = some .noSuchVoice := by decide
/-- RF6 and RF7. -/
theorem test_refuse_address :
    refusal (decode 0x60800000) (State.initial small) = some .noSuchAddress
      ∧ refusal (decode 0x607F0000) (State.initial small) = none ∧ refusal (decode 0x60FF0000) s8 = none := by decide
/-- RF5. -/
theorem test_refuse_reserved :
    refusal (decode 0xB0000000) s8 = some .reservedKind ∧ refusal (decode 0xF0000000) s8 = some .reservedKind := by decide
/-- RF9. -/
theorem test_construct_refuses :
    configError { small with voiceCount := 3 } = some .voiceCount
      ∧ configError { small with wavetableSize := 64 } = some .wavetableSize
      ∧ configError { small with timerBaseRate := ⟨0, 1⟩ } = some .timerBaseRate
      ∧ configError { small with quarterSine := [] } = some .quarterSine
      ∧ configError { small with registerInterpreter := .present } = some .interpreter
      ∧ configError { Config.ofExamples with voiceCount := 2 } = some .interpreter ∧ configError small = none := by decide

/-! ## Frequency conversion (95, L2-B) -/

theorem test_tune_of :
    tuneOf (vectors .disabled .full 8) 0 = 67 ∧ tuneOf (vectors .disabled .full 8) 1024 = 134
      ∧ tuneOf (vectors .disabled .full 8) 1923 = 1099 ∧ tuneOf (vectors .disabled .full 8) 2045 = 45812
      ∧ tuneOf (vectors .disabled .full 4) 0 = 33 ∧ tuneOf (vectors .disabled .full 4) 1923 = 549 := by decide
/-- L1-3. -/
theorem test_pitch_to_fnumber :
    pitchToFnumber (vectors .disabled .full 8) 0 = 1845 ∧ pitchToFnumber (vectors .disabled .full 8) 12 = 3690 := by decide

/-! ## The assembler (30_encoding R94, R95) -/

/-- `fhi0 0x87 ; trigger` is `regw 0x14, 0x87`. -/
theorem test_parse_register_mnemonic :
    parseLine ['f', 'h', 'i', '0', ' ', '0', 'x', '8', '7', ' ', ';', ' ', 't'] = .ok (some (.regw 0x14 0x87)) := rfl
/-- `poke 3, tune, 0x1234`. -/
theorem test_parse_poke :
    parseLine ['p', 'o', 'k', 'e', ' ', '3', ',', ' ', 't', 'u', 'n', 'e', ',', ' ', '4', '6', '6', '0']
      = .ok (some (.poke 3 .tune 0x1234)) := rfl
theorem test_parse_unknown : parseLine ['h', 'a', 'l', 't'] = .error .unknownMnemonic := rfl
theorem test_parse_comment : parseLine [' ', ';', 'x'] = .ok none := rfl

/-- The pseudo-instructions of 30_encoding R95. -/
theorem test_pseudo :
    let cfg := vectors .independent .half 4
    let high : Channel → BitVec 3 := fun _ => 3
    assemble cfg high (.note .ch0 0x783) = [0x00130083, 0x00140087] ∧ assemble cfg high (.noteoff .ch1) = [0x00190003]
      ∧ assemble cfg high .round = [0x10000000, 0x10000000, 0x10000000, 0x10000000]
      ∧ assemble cfg high (.fclks 2) = [0x20000000, 0x20000000]
      ∧ assemble cfg high (.wavefill 0x60 [1, 2]) = [0x50600001, 0x50610002]
      ∧ assemble cfg high (.pattern [0xAB, 0xCD]) = [0x003000AB, 0x003100CD] := by decide

/-! ## Witnesses: for each statement with hypotheses, states and operands that meet them all -/

/-- The invariant as a computation, but for the gains. -/
def checks (s : State) : Bool :=
  decide s.cfg.legal && decide (s.voices.length = s.cfg.voiceCount) && decide (Memory.wf s.cfg s.wavetable)
    && decide (s.rr < s.cfg.voiceCount) && decide (s.cfg.stereoMode ≠ .disabled → s.rr % 2 = 0)
    && decide (s.cfg.sampleRateDivider = .full → s.div = false)
    && decide (s.leftSum.toNat ≤ s.rr * 65025) && decide (s.rightSum.toNat ≤ s.rr * 65025)
    && decide (s.cfg.stereoMode = .disabled → s.rightSum = 0 ∧ s.outRight = 0)
    && decide (s.env0.startingVolume &&& 0x0F = 0) && decide (s.env1.startingVolume &&& 0x0F = 0)
    && decide (s.env0.counter.toNat ≤ s.env0.period.toNat) && decide (s.env1.counter.toNat ≤ s.env1.period.toNat)
    && decide (s.waveLevel ∈ [(0x00 : Byte), 0xF0, 0x78, 0x3C])
    && decide (s.len0.loadValue.toNat < 64) && decide (s.len1.loadValue.toNat < 64)
    && decide (s.len0.counter.toNat ≤ 64) && decide (s.len1.counter.toNat ≤ 64) && decide (s.len2.counter.toNat ≤ 256)

theorem inv_of_checks {s : State} (g : ∀ o ∈ s.voices, o.gain.fits s.cfg.stereoMode) (h : checks s = true) : s.Inv := by
  simp only [checks, Bool.and_eq_true, decide_eq_true_eq] at h
  obtain ⟨⟨⟨⟨⟨⟨⟨⟨⟨⟨⟨⟨⟨⟨⟨⟨⟨⟨h1, h2⟩, h3⟩, h4⟩, h5⟩, h6⟩, h7⟩, h8⟩, h9⟩, h10⟩, h11⟩, h12⟩, h13⟩, h14⟩, h15⟩, h16⟩, h17⟩,
    h18⟩, h19⟩ := h
  exact ⟨h1, h2, g, h3, h4, h5, h6, h7, h8, h9, h10, h11, h12, h13, h14, h15, h16, h17, h18, h19⟩

/-- A running block: eight voices with gains of their mode, every unit and shadow register in use. -/
def running (mode : StereoMode) (divider : SampleRateDivider) (rr : Nat) : State :=
  { uniform (State.initial (vectors mode divider 8))
      ⟨0xFFF0, 0x0123, 0x20, 0x1F, if mode = .independent then .separate 0xF0 0x0F else .shared 0xF0⟩ with
    rr := rr, leftSum := BitVec.ofNat 20 (rr * 65025), rightSum := if mode = .disabled then 0 else BitVec.ofNat 20 rr,
    outLeft := 0x5A, outRight := if mode = .disabled then 0 else 0xA5, wavetable := [(0x60, 0x7F)],
    fnum0 := 0x400, fnum1 := 0x7FF, fnum2 := 0x123, env0 := ⟨0xF0, 7, .decrease, 7⟩, env1 := ⟨0x10, 1, .increase, 1⟩,
    waveLevel := 0x3C, len0 := ⟨true, 63, 64⟩, len1 := ⟨true, 0, 1⟩, len2 := ⟨true, 0xFF, 256⟩,
    sweep := ⟨7, true, 7, 0x400, true, 7⟩, frameStep := 7, pending := [0x20000000], response := .field 1 }

theorem running_gains (mode : StereoMode) (divider : SampleRateDivider) (rr : Nat) :
    ∀ o ∈ (running mode divider rr).voices, o.gain.fits (running mode divider rr).cfg.stereoMode := by
  intro o ho
  have h : o.gain = if mode = .independent then Gain.separate 0xF0 0x0F else Gain.shared 0xF0 := by
    simp only [running, uniform, List.mem_map] at ho
    obtain ⟨_, _, rfl⟩ := ho
    rfl
  rw [h]
  show Gain.fits _ mode
  cases mode <;> simp [Gain.fits]

/-- A change of a running block that keeps its voices is checked by computation. -/
theorem tweaked {mode : StereoMode} {divider : SampleRateDivider} {rr : Nat} (f : State → State)
    (hv : (f (running mode divider rr)).voices = (running mode divider rr).voices)
    (hc : (f (running mode divider rr)).cfg = (running mode divider rr).cfg)
    (h : checks (f (running mode divider rr)) = true) : (f (running mode divider rr)).Inv := by
  refine inv_of_checks ?_ h
  rw [hv, hc]
  exact running_gains mode divider rr

theorem running_inv (mode : StereoMode) (divider : SampleRateDivider) {rr : Nat}
    (h : checks (running mode divider rr) = true) : (running mode divider rr).Inv := tweaked id rfl rfl h

/-- A running block of one mode, with its interpreter. -/
abbrev run0 : State := running .disabled .full 0

theorem run0_inv : run0.Inv := running_inv _ _ (by decide)

/-! ### Encoding -/

theorem witness_DecodeOfEncodeGivesTheEventBack :
    (Instr.regwIgnored 0x0F 0xFF).wellFormed = true ∧ (Instr.regwIgnored 0x1F 0).wellFormed = true
      ∧ (Instr.vpokeBadfield 15 7 0xFFFF).wellFormed = true ∧ (Instr.vpeekBadfield 0 6).wellFormed = true
      ∧ (Instr.regwPat 15 0xFF).wellFormed = true ∧ (Instr.vpokeSel 15 0xFF).wellFormed = true := by decide
theorem witness_RegisterMapOfRegw :
    (∀ reg ∈ [(0x00 : Byte), 0x0F, 0x15, 0x1A, 0x1F, 0x20, 0x2F, 0x40, 0xFF],
      reg.toNat ≤ 0x0F ∨ reg = 0x15 ∨ reg = 0x1A ∨ reg = 0x1F ∨ (0x20 ≤ reg.toNat ∧ reg.toNat ≤ 0x2F) ∨ 0x40 ≤ reg.toNat)
      ∧ ∀ reg ∈ [(0x10 : Byte), 0x1E, 0x30, 0x3F],
        ¬ (reg.toNat ≤ 0x0F ∨ reg = 0x15 ∨ reg = 0x1A ∨ reg = 0x1F ∨ (0x20 ≤ reg.toNat ∧ reg.toNat ≤ 0x2F)
          ∨ 0x40 ≤ reg.toNat) := by decide
theorem witness_FormatOfVoiceEvents :
    s8.cfg.voiceCount ≤ (8 : BitVec 4).toNat ∧ ¬ s8.cfg.voiceCount ≤ (7 : BitVec 4).toNat
      ∧ ((0x3 : BitVec 4) = 0x3 ∨ (0x3 : BitVec 4) = 0x4) ∧ ((0x4 : BitVec 4) = 0x3 ∨ (0x4 : BitVec 4) = 0x4) := by decide

/-! ### The machine as a whole -/

theorem witness_StepPerformsTheNextEvent :
    run0.pending = 0x20000000 :: [] ∧ { run0 with pending := [] }.pending = [] := ⟨rfl, rfl⟩
theorem witness_RefusalsAreThoseOfTheTable :
    refusalOf small 0xB0000000 = some .reservedKind ∧ refusalOf small 0x3A600000 = some .noSuchVoice
      ∧ refusalOf small 0x31600000 = some .noSuchField ∧ refusalOf small 0x50800000 = some .noSuchAddress
      ∧ refusalOf small 0x507F0000 = none ∧ refusalOf small 0x00240000 = some .noInterpreter
      ∧ refusalOf Config.ofExamples 0x37500000 = none ∧ refusalOf Config.ofExamples 0x00240000 = none := by decide
theorem witness_EventsSeeNothingOfThePort :
    (∃ t, exec .tick run0 = .next t) ∧ (∃ t, exec (.regwFhi0 0x80) run0 = .next t) ∧ ∃ t, exec .initEvent run0 = .next t :=
  ⟨⟨_, rfl⟩, ⟨_, rfl⟩, ⟨_, rfl⟩⟩
theorem witness_StepKeepsTheInvariant : run0.Inv ∧ ∃ t, step run0 = .next t := ⟨run0_inv, ⟨_, rfl⟩⟩
theorem witness_ConfigurationIsFixed : ∃ t, step run0 = .next t := ⟨_, rfl⟩
theorem witness_ConstructionAdmitsExactlyTheLegalConfigurations :
    configError small = none ∧ configError Config.ofExamples = none ∧ configError (vectors .disabled .full 4) = none
      ∧ configError (vectors .independent .half 10) = none ∧ configError (vectors .disabled .full 2) ≠ none
      ∧ configError { small with quarterSine := List.replicate 16 0x01 } = none
      ∧ configError { small with quarterSine := List.replicate 16 0x00 } ≠ none := by decide

/-! ### TICK -/

/-- A processed strobe under each stereo mode and divider, at the first and the last index of both clauses. -/
theorem witness_ProcessedTickAdvancesMixesAndEmits :
    ((running .disabled .full 0).Inv ∧ (running .disabled .full 0).rr + Spec.pair (running .disabled .full 0) < 8)
      ∧ ((running .disabled .full 6).Inv ∧ (running .disabled .full 6).rr + Spec.pair (running .disabled .full 6) < 8)
      ∧ ((running .disabled .full 7).Inv ∧ (running .disabled .full 7).rr + Spec.pair (running .disabled .full 7) = 8)
      ∧ ((running .independent .half 4).Inv ∧ (running .independent .half 4).rr + Spec.pair (running .independent .half 4) < 8)
      ∧ ((running .independent .full 6).Inv ∧ (running .independent .full 6).rr + Spec.pair (running .independent .full 6) = 8)
      ∧ ((running .fixedAssignment .full 4).Inv
        ∧ (running .fixedAssignment .full 4).rr + Spec.pair (running .fixedAssignment .full 4) < 8)
      ∧ ((running .fixedAssignment .half 6).Inv
        ∧ (running .fixedAssignment .half 6).rr + Spec.pair (running .fixedAssignment .half 6) = 8)
      ∧ ∀ mode divider rr,
        Spec.processed (running mode divider rr) ∧ (running mode divider rr).cfg.voiceCount = 8 :=
  ⟨⟨running_inv _ _ (by decide), by decide⟩, ⟨running_inv _ _ (by decide), by decide⟩,
    ⟨running_inv _ _ (by decide), by decide⟩, ⟨running_inv _ _ (by decide), by decide⟩,
    ⟨running_inv _ _ (by decide), by decide⟩, ⟨running_inv _ _ (by decide), by decide⟩,
    ⟨running_inv _ _ (by decide), by decide⟩, fun _ _ _ => ⟨.inr rfl, rfl⟩⟩
theorem witness_TickUnderTheDivider :
    let s := running .independent .half 2
    (s.cfg.sampleRateDivider = .half ∧ s.div = false)
      ∧ (({ s with div := true }).cfg.sampleRateDivider = .half ∧ ({ s with div := true }).div = true)
      ∧ run0.cfg.sampleRateDivider = .full := by decide
theorem witness_RoundEmitsTheExactMix :
    (running .disabled .full 0).Inv ∧ (running .independent .full 0).Inv ∧ (running .fixedAssignment .full 0).Inv
      ∧ ∀ mode, (running mode .full 0).cfg.sampleRateDivider = .full ∧ (running mode .full 0).rr = 0 :=
  ⟨running_inv _ _ (by decide), running_inv _ _ (by decide), running_inv _ _ (by decide), fun _ => ⟨rfl, rfl⟩⟩

/-! ### FCLK -/

/-- Every step is reached: n takes each value 0 to 7. -/
theorem witness_FclkRunsTheUnitsOfItsStep :
    (∀ n : Fin 8, ∃ k : BitVec 3, Spec.present { run0 with frameStep := k } ∧ (k.toNat + 1) % 8 = n.val)
      ∧ (State.initial small).cfg.registerInterpreter = .absent := by decide
theorem witness_LengthUnitCountsAndMutes :
    (∀ l ∈ [(⟨false, 0, 5⟩ : LengthCounter), ⟨true, 0, 0⟩],
      ({ run0 with len0 := l }).Inv ∧ (l.enabled = false ∨ l.counter.toNat = 0))
      ∧ (∀ l ∈ [(⟨true, 0, 2⟩ : LengthCounter), ⟨true, 0, 64⟩],
        ({ run0 with len0 := l }).Inv ∧ l.enabled = true ∧ 2 ≤ l.counter.toNat)
      ∧ (run0.Inv ∧ (run0.len .ch1).enabled = true ∧ (run0.len .ch1).counter.toNat = 1)
      ∧ 2 ≤ (run0.len .ch2).counter.toNat := by
  refine ⟨?_, ?_, ⟨run0_inv, by decide⟩, by decide⟩ <;>
  · intro l hl
    simp only [List.mem_cons, List.not_mem_nil, or_false] at hl
    rcases hl with rfl | rfl
    · exact ⟨tweaked (fun s => { s with len0 := _ }) rfl rfl (by decide), by decide⟩
    · exact ⟨tweaked (fun s => { s with len0 := _ }) rfl rfl (by decide), by decide⟩
theorem witness_EnvelopeUnitStepsTheAmplitude :
    (∀ e ∈ [(⟨0xF0, 0, .increase, 0⟩ : Envelope), ⟨0xF0, 7, .increase, 2⟩, ⟨0xF0, 7, .increase, 7⟩, ⟨0xF0, 1, .increase, 0⟩,
        ⟨0xF0, 7, .decrease, 1⟩], ({ run0 with env0 := e }).Inv)
      ∧ ∀ a ∈ [(0 : Byte), 1, 254, 255], ∃ s : State,
        s.Inv ∧ s.env .sq1 = ⟨0x10, 1, .increase, 1⟩ ∧ (s.voice 1).gain.left = a := by
  constructor
  · intro e he
    simp only [List.mem_cons, List.not_mem_nil, or_false] at he
    rcases he with rfl | rfl | rfl | rfl | rfl
    · exact tweaked (fun s => { s with env0 := _ }) rfl rfl (by decide)
    · exact tweaked (fun s => { s with env0 := _ }) rfl rfl (by decide)
    · exact tweaked (fun s => { s with env0 := _ }) rfl rfl (by decide)
    · exact tweaked (fun s => { s with env0 := _ }) rfl rfl (by decide)
    · exact tweaked (fun s => { s with env0 := _ }) rfl rfl (by decide)
  · intro a ha
    have g : ∀ a, ∀ o ∈ (uniform run0 ⟨0, 0, 0, 0, .shared a⟩).voices, o.gain.fits run0.cfg.stereoMode := by
      intro a o ho
      simp only [uniform, List.mem_map] at ho
      obtain ⟨_, _, rfl⟩ := ho
      simp [Gain.fits, running, vectors, State.initial, uniform]
    simp only [List.mem_cons, List.not_mem_nil, or_false] at ha
    rcases ha with rfl | rfl | rfl | rfl
    · exact ⟨_, inv_of_checks (g 0) (by decide), rfl, rfl⟩
    · exact ⟨_, inv_of_checks (g 1) (by decide), rfl, rfl⟩
    · exact ⟨_, inv_of_checks (g 254) (by decide), rfl, rfl⟩
    · exact ⟨_, inv_of_checks (g 255) (by decide), rfl, rfl⟩
/-- Still; counting at 2 and 7; firing at 0 and 1 with `new` at 0, 2047 (a commit), 2048 and 4094 (an overflow). -/
theorem witness_SweepUnitCommitsOrMutes :
    (∀ w ∈ [(⟨7, false, 0, 5, false, 1⟩ : Sweep), ⟨0, false, 0, 5, true, 0⟩, ⟨7, false, 0, 5, true, 2⟩,
        ⟨7, false, 0, 5, true, 7⟩, ⟨1, true, 0, 0x7FF, true, 0⟩, ⟨1, false, 7, 2032, true, 1⟩, ⟨1, false, 0, 1024, true, 1⟩,
        ⟨1, false, 0, 2047, true, 1⟩], ({ run0 with sweep := w }).Inv)
      ∧ 0x7FF - 0x7FF / 2 ^ 0 = 0 ∧ 2032 + 2032 / 2 ^ 7 = 2047 ∧ 1024 + 1024 / 2 ^ 0 = 2048 ∧ 2047 + 2047 / 2 ^ 0 = 4094 :=
  ⟨fun _ _ => { run0_inv with }, by decide⟩
theorem witness_CountdownFiresEveryPeriod : (1 : BitVec 3) ≠ 0 ∧ (7 : BitVec 3) ≠ 0 := by decide
theorem witness_FrameStepCyclesForEver :
    Spec.present run0 ∧ (∃ t, exec .fclk run0 = .next t) ∧ (∃ t, exec .beginEvent run0 = .next t)
      ∧ ∃ t, exec .tick run0 = .next t := ⟨rfl, ⟨_, rfl⟩, ⟨_, rfl⟩, ⟨_, rfl⟩⟩
theorem witness_FclkFrame : Spec.present run0 ∧ run0.voices[7]? = some (run0.voice 7) := ⟨rfl, rfl⟩

/-! ### REGW -/

/-- SWEEP0, LENDUTY, ENV, FLO, LEN2, LVL2, PAT and IGNORED need the interpreter alone. -/
theorem witness_present : Spec.present run0 := rfl
/-- The FHI statements, with the trigger bit and without it, at both ends of the other bits. -/
theorem witness_FhiTriggersOrMutes :
    run0.Inv ∧ (running .independent .full 0).Inv ∧ Spec.present run0 ∧ Spec.present (running .independent .full 0)
      ∧ (0x80 : Byte).getLsbD 7 = true ∧ (0xFF : Byte).getLsbD 7 = true ∧ (0x00 : Byte).getLsbD 7 = false
      ∧ (0x7F : Byte).getLsbD 7 = false :=
  ⟨run0_inv, running_inv _ _ (by decide), rfl, rfl, by decide⟩
theorem witness_RegwLeavesTheEngineAlone :
    Spec.isRegw (.regwFhi0 0x87) ∧ Spec.isRegw (.regwIgnored 0xFF 0) ∧ ¬ Spec.isRegw .fclk ∧ Spec.present run0
      ∧ (State.initial small).cfg.registerInterpreter = .absent ∧ run0.voices[3]? = some (run0.voice 3) :=
  ⟨by unfold Spec.isRegw; decide, by unfold Spec.isRegw; decide, by unfold Spec.isRegw; decide, rfl, rfl, rfl⟩

/-! ### Host ports -/

/-- VPOKE, VPEEK and what reads back: the last voice that exists and the first that does not, in each stereo mode. -/
theorem witness_voice_ports :
    (running .independent .full 0).Inv ∧ (running .fixedAssignment .full 0).Inv ∧ run0.Inv
      ∧ (0 : BitVec 4).toNat < run0.cfg.voiceCount ∧ (7 : BitVec 4).toNat < run0.cfg.voiceCount
      ∧ ¬ (8 : BitVec 4).toNat < run0.cfg.voiceCount ∧ run0.voices[(7 : BitVec 4).toNat]? = some (run0.voice 7)
      ∧ (running .independent .full 0).cfg.stereoMode = .independent ∧ run0.cfg.stereoMode ≠ .independent :=
  ⟨running_inv _ _ (by decide), running_inv _ _ (by decide), run0_inv, by decide, by decide, by decide, rfl, rfl, by decide⟩
theorem witness_WavetablePorts :
    (0x7F : Byte).toNat < (State.initial small).cfg.wavetableSize ∧ (State.initial small).cfg.wavetableSize ≤ (0x80 : Byte).toNat
      ∧ (0xFF : Byte).toNat < run0.cfg.wavetableSize := by decide
theorem witness_InitFillsTheDefaultSine : run0.cfg.legal ∧ small.legal := by decide
theorem witness_BeginStartsTheRegisterInterface :
    run0.Inv ∧ Spec.present run0 ∧ (running .independent .full 0).Inv ∧ (State.initial small).Inv
      ∧ (State.initial small).cfg.registerInterpreter = .absent :=
  ⟨run0_inv, rfl, running_inv _ _ (by decide),
    inv_of_checks (fun o ho => by rw [List.eq_of_mem_replicate ho]; simp [Gain.fits, Voice.initial, Gain.zero, small,
      Config.ofExamples, State.initial]) (by decide), rfl⟩

/-! ### Across all events -/

theorem witness_WritersOfEachVoiceField :
    (∃ t, exec .fclk run0 = .next t)
      ∧ (¬ Spec.writesPhase .fclk ∧ ¬ Spec.writesSelect .fclk ∧ ¬ Spec.writesMask .fclk)
      ∧ (∃ t, exec .tick run0 = .next t) ∧ ¬ Spec.writesTune .tick ∧ ¬ Spec.writesGain .tick :=
  ⟨⟨_, rfl⟩, ⟨fun h => h, fun h => h, fun h => h⟩, ⟨_, rfl⟩, fun h => h, fun h => h⟩
theorem witness_WritersOfTheEngine :
    (Instr.beginEvent ≠ .tick ∧ Instr.beginEvent ≠ .initEvent ∧ ∃ t, exec .beginEvent run0 = .next t)
      ∧ Instr.fclk ≠ .tick ∧ Instr.fclk ≠ .initEvent ∧ ∃ t, exec .fclk run0 = .next t :=
  ⟨⟨by decide, by decide, ⟨_, rfl⟩⟩, by decide, by decide, ⟨_, rfl⟩⟩
theorem witness_WritersOfTheWavetable :
    (∀ k d, Instr.tick ≠ .regwPat k d) ∧ (∀ a x, Instr.tick ≠ .wtwrite a x) ∧ Instr.tick ≠ .initEvent
      ∧ Instr.tick ≠ .beginEvent ∧ ∃ t, exec .tick run0 = .next t :=
  ⟨nofun, nofun, by decide, by decide, ⟨_, rfl⟩⟩

/-! ### Frequency conversion and the assembler -/

/-- The last field whose tune fits and the first whose tune does not, at the vectors' configuration. -/
theorem witness_TuneOfIsTheExactFloor :
    Config.ofExamples.legal ∧ ⌊Spec.exactTuning Config.ofExamples 2045⌋ < 65536
      ∧ 65536 ≤ ⌊Spec.exactTuning Config.ofExamples 2046⌋ := by
  refine ⟨by decide, ?_, ?_⟩
  · rw [Int.floor_lt]
    norm_num [Spec.exactTuning, Config.ofExamples, show (2045 : BitVec 11).toNat = 2045 from rfl]
  · rw [Int.le_floor]
    norm_num [Spec.exactTuning, Config.ofExamples, show (2046 : BitVec 11).toNat = 2046 from rfl]
theorem witness_NotePlaysItsFrequency : run0.Inv ∧ Spec.present run0 := ⟨run0_inv, rfl⟩
theorem witness_NoteoffSilencesAndKeepsTheFrequency :
    run0.Inv ∧ Spec.present run0
      ∧ ∃ high : Channel → BitVec 3, ∀ d, high d = BitVec.ofNat 3 ((run0.fnum d).toNat / 256) :=
  ⟨run0_inv, rfl, ⟨_, fun _ => rfl⟩⟩

end Sys2Proof.Tests
end

section
/-! PROOFS. INIT (44_host_ports R232): the state it produces is that of the reset table (10_state R40), read in the
statements' own words. -/

namespace Sys2Proof.Machine

/-- The state after INIT: a constructed one, with the events still to come. -/
def State.afterInit (s : State) : State := { State.initial s.cfg with pending := s.pending }

theorem exec_initEvent (s : State) : exec .initEvent s = .next s.afterInit := rfl

/-- INIT's result depends on the configuration and the pending events alone, and INIT keeps both. -/
theorem State.afterInit_afterInit (s : State) : s.afterInit.afterInit = s.afterInit := rfl

/-- The two writings of the gains of a silent voice agree in each stereo mode (10_state R23, R40). -/
theorem Gain.zero_eq_bothGains (mode : StereoMode) : Gain.zero mode = Spec.bothGains mode 0 := by
  cases mode <;> rfl

theorem Voice.initial_eq (mode : StereoMode) :
    Voice.initial mode =
      { phase := 0, tune := 0, waveSelect := 0, waveMask := 0, gain := Spec.bothGains mode 0 } := by
  rw [Voice.initial, Gain.zero_eq_bothGains]

/-- The model's reset content is the default sine of 70_reset R274. The rule's negation is modulo 256, which an 8-bit
value takes by itself. -/
theorem resetByte_eq_initByte (cfg : Config) (a : Nat) : resetByte cfg a = Spec.initByte cfg a := by
  have negate_mod (x : Nat) : BitVec.ofNat 8 x = BitVec.ofNat 8 (x % 256) :=
    BitVec.eq_of_toNat_eq (by simp)
  unfold resetByte Spec.initByte
  split
  case isTrue => rfl
  case isFalse =>
    split
    case isTrue => exact negate_mod _
    case isFalse => rfl

/-- Every address of the wavetable reads its reset content after INIT. -/
theorem State.afterInit_readByte (s : State) (a : Nat) : s.afterInit.readByte a = Spec.initByte s.cfg a :=
  (memRead_nil s.cfg a).trans (resetByte_eq_initByte s.cfg a)

theorem State.afterInit_voices (s : State) :
    s.afterInit.voices = List.replicate s.cfg.voiceCount
      { phase := 0, tune := 0, waveSelect := 0, waveMask := 0, gain := Spec.bothGains s.cfg.stereoMode 0 } :=
  congrArg (List.replicate s.cfg.voiceCount) (Voice.initial_eq s.cfg.stereoMode)

/-- Settles O46: the voice file and the wavetable by their lemmas, the registers by the reset table's own values, and
idempotence since INIT keeps all that its result depends on. -/
theorem initGivesEveryResetValue : Obligations.InitGivesEveryResetValue := by
  intro s
  have again : exec .initEvent s.afterInit = .next s.afterInit :=
    (exec_initEvent s.afterInit).trans (congrArg _ s.afterInit_afterInit)
  refine ⟨s.afterInit, exec_initEvent s, s.afterInit_voices, ?_⟩
  refine ⟨rfl, rfl, rfl, rfl, rfl, rfl, rfl, rfl, rfl, rfl, rfl, rfl, rfl, rfl, rfl, rfl, rfl, ?_⟩
  exact ⟨s.afterInit_readByte, rfl, rfl, rfl, again⟩

end Sys2Proof.Machine
end

section
/-! PROOFS. The word formats (30_encoding R82 to R87, R96): what the decoder reads at every value of the ignored bits, and
which words of the voice ports are refused. -/

namespace Sys2Proof

/-- The kinds whose words have operand fields: REGW, VPOKE, VPEEK, WTWRITE and WTREAD (30_encoding R82 to R84). -/
def operandKinds : List (BitVec 4) := [0x0, 0x3, 0x4, 0x5, 0x6]

/-- A word of a kind without operand fields decodes by its kind alone, so as the word whose other bits are 0
(30_encoding R85, R86). -/
theorem decode_eq_decode_plainWord {kind : BitVec 4} (hkind : kind ∉ operandKinds) (x : BitVec 28) :
    decode (kind ++ x) = decode (plainWord kind) := by
  have kind_ne (n : BitVec 4) (hn : n ∈ operandKinds) : kind.toNat ≠ n.toNat :=
    fun heq => hkind (BitVec.eq_of_toNat_eq heq ▸ hn)
  unfold decode plainWord
  rw [kind_append, kind_append]
  split
  case h_1 h => exact absurd h (kind_ne 0x0 (by decide))
  case h_4 h => exact absurd h (kind_ne 0x3 (by decide))
  case h_5 h => exact absurd h (kind_ne 0x4 (by decide))
  case h_6 h => exact absurd h (kind_ne 0x5 (by decide))
  case h_7 h => exact absurd h (kind_ne 0x6 (by decide))
  all_goals rfl

/-- A WTWRITE word decodes by its address and byte, whatever its other bits (30_encoding R84). -/
theorem decode_wtwrite (x : BitVec 4) (addr h wdata : Byte) :
    decode (0x5#4 ++ x ++ addr ++ h ++ wdata : BitVec 32) = .wtwrite addr wdata := by
  obtain ⟨hkind, haddr, hwdata⟩ := byte_fields 0x5#4 x addr h wdata
  unfold decode
  simp only [hkind, haddr, hwdata]
  rfl

/-- A WTREAD word decodes by its address, whatever its other bits (30_encoding R84). -/
theorem decode_wtread (x : BitVec 4) (addr h wdata : Byte) :
    decode (0x6#4 ++ x ++ addr ++ h ++ wdata : BitVec 32) = .wtread addr := by
  obtain ⟨hkind, haddr, _⟩ := byte_fields 0x6#4 x addr h wdata
  unfold decode
  simp only [hkind, haddr]
  rfl

/-- The addresses that R91 lists as ignored are those that no row of the register map names (30_encoding R87). -/
theorem not_decodedRegister_iff (reg : Byte) :
    ¬ decodedRegister reg ↔
      reg.toNat ≤ 0x0F ∨ reg = 0x15 ∨ reg = 0x1A ∨ reg = 0x1F ∨ (0x20 ≤ reg.toNat ∧ reg.toNat ≤ 0x2F)
        ∨ 0x40 ≤ reg.toNat := by
  revert reg; decide

/-- The two bytes of a word's low half are one 16-bit field of it. -/
theorem append_two_bytes (a : BitVec 16) (h l : Byte) : (a ++ h ++ l : BitVec 32) = a ++ (h ++ l) :=
  BitVec.append_assoc

theorem decodeVpoke_badField {field : BitVec 3} (hfield : badField field) (v : BitVec 4) (value : BitVec 16) :
    decodeVpoke v field value = .vpokeBadfield v field value := by
  obtain rfl | rfl := hfield <;> rfl

theorem decodeVpeek_badField {field : BitVec 3} (hfield : badField field) (v : BitVec 4) :
    decodeVpeek v field = .vpeekBadfield v field := by
  obtain rfl | rfl := hfield <;> rfl

end Sys2Proof

namespace Sys2Proof.Machine

/-- What VPOKE and VPEEK answer on a reserved field code, the voice tested first (44 R226, 60_exceptions R257). -/
def badFieldRefusal (s : State) (v : BitVec 4) : Refusal :=
  if v.toNat < s.cfg.voiceCount then .noSuchField else .noSuchVoice

theorem exec_vpokeBadfield (v : BitVec 4) (field : BitVec 3) (value : BitVec 16) (s : State) :
    exec (.vpokeBadfield v field value) s = .refused (badFieldRefusal s v) :=
  (apply_ite Host.Outcome.refused _ _ _).symm

theorem exec_vpeekBadfield (v : BitVec 4) (field : BitVec 3) (s : State) :
    exec (.vpeekBadfield v field) s = .refused (badFieldRefusal s v) :=
  (apply_ite Host.Outcome.refused _ _ _).symm

/-- No VPOKE is performed on a voice that does not exist, whatever its field code: every arm tests the voice first
(44 R226). -/
theorem exec_decodeVpoke_of_missing {s : State} {v : BitVec 4} (hv : s.cfg.voiceCount ≤ v.toNat) (field : BitVec 3)
    (value : BitVec 16) : exec (decodeVpoke v field value) s = .refused .noSuchVoice := by
  unfold decodeVpoke
  split <;> exact if_neg (Nat.not_lt.mpr hv)

/-- No VPEEK is performed on a voice that does not exist, whatever its field code: every arm tests the voice first
(44 R226). -/
theorem exec_decodeVpeek_of_missing {s : State} {v : BitVec 4} (hv : s.cfg.voiceCount ≤ v.toNat) (field : BitVec 3) :
    exec (decodeVpeek v field) s = .refused .noSuchVoice := by
  unfold decodeVpeek
  split <;> exact if_neg (Nat.not_lt.mpr hv)

/-- A VPOKE of a missing voice or of a reserved field code is refused (30_encoding R83, 44 R226). -/
theorem exec_decodeVpoke_refused {s : State} {v : BitVec 4} {field : BitVec 3}
    (h : s.cfg.voiceCount ≤ v.toNat ∨ badField field) (value : BitVec 16) :
    ∃ r, exec (decodeVpoke v field value) s = .refused r := by
  obtain hv | hfield := h
  · exact ⟨_, exec_decodeVpoke_of_missing hv field value⟩
  · exact ⟨_, decodeVpoke_badField hfield v value ▸ exec_vpokeBadfield v field value s⟩

/-- A VPEEK of a missing voice or of a reserved field code is refused (30_encoding R83, 44 R226). -/
theorem exec_decodeVpeek_refused {s : State} {v : BitVec 4} {field : BitVec 3}
    (h : s.cfg.voiceCount ≤ v.toNat ∨ badField field) : ∃ r, exec (decodeVpeek v field) s = .refused r := by
  obtain hv | hfield := h
  · exact ⟨_, exec_decodeVpeek_of_missing hv field⟩
  · exact ⟨_, decodeVpeek_badField hfield v ▸ exec_vpeekBadfield v field s⟩

/-- Settles O3: a REGW word decodes by its register alone, and then the register map is read row by row; the addresses
of the last row are those that no other row names. -/
theorem registerMapOfRegw : Obligations.RegisterMapOfRegw := by
  intro x h d regw
  have byRegister (reg : Byte) : decode (regw reg) = decodeRegw reg d := decode_regw x reg h d
  simp only [byRegister]
  refine ⟨rfl, rfl, rfl, rfl, rfl, rfl, rfl, rfl, rfl, rfl, rfl, rfl, rfl, ?pattern, ?ignored⟩
  case pattern => exact fun k => decodeRegw_pattern k d
  case ignored => exact fun reg hreg => decodeRegw_ignored d ((not_decodedRegister_iff reg).mpr hreg)

/-- Settles O4: the words of both kinds decode by their fields alone; then each field code is read, and the refusals are
those of the decoded events. -/
theorem formatOfVoiceEvents : Obligations.FormatOfVoiceEvents := by
  intro v b x h l word
  have poke (field : BitVec 3) : decode (word 0x3 field) = decodeVpoke v field (h ++ l) :=
    (congrArg decode (append_two_bytes _ h l)).trans (decode_vpoke v b field x (h ++ l))
  have peek (field : BitVec 3) : decode (word 0x4 field) = decodeVpeek v field :=
    (congrArg decode (append_two_bytes _ h l)).trans (decode_vpeek v b field x (h ++ l))
  have low : (h ++ l).extractLsb' 0 8 = l := (extractLsb'_low (by decide)).trans (extractLsb'_whole l)
  refine ⟨poke 0, poke 1, ?_, ?_, ?_, ?_, peek 0, peek 1, peek 2, peek 3, peek 4, peek 5, ?refused⟩
  · exact (poke 2).trans (congrArg (Instr.vpokeSel v) low)
  · exact (poke 3).trans (congrArg (Instr.vpokeMask v) low)
  · exact (poke 4).trans (congrArg (Instr.vpokeAmpl v) low)
  · exact (poke 5).trans (congrArg (Instr.vpokeAmpr v) low)
  case refused =>
    rintro s kind field (rfl | rfl) hbad
    · exact poke field ▸ exec_decodeVpoke_refused hbad (h ++ l)
    · exact peek field ▸ exec_decodeVpeek_refused hbad

/-- Settles O5: the two formats, field by field. -/
theorem formatOfWavetableEvents : Obligations.FormatOfWavetableEvents :=
  fun x addr h wdata => ⟨decode_wtwrite x addr h wdata, decode_wtread x addr h wdata⟩

/-- Settles O6: none of the six kinds has operand fields, so each word decodes as the one whose other bits are 0. -/
theorem formatOfPlainEvents : Obligations.FormatOfPlainEvents := by
  intro x
  have plain {kind : BitVec 4} (hkind : kind ∉ operandKinds) := decode_eq_decode_plainWord hkind x
  exact ⟨plain (by decide), plain (by decide), plain (by decide), plain (by decide), plain (by decide),
    plain (by decide)⟩

/-- Settles O7: the reserved kinds have no operand fields either, and their events refuse without reading the state. -/
theorem reservedKindsAreRefused : Obligations.ReservedKindsAreRefused := by
  intro x s
  have plain {kind : BitVec 4} (hkind : kind ∉ operandKinds) := decode_eq_decode_plainWord hkind x
  exact ⟨⟨plain (by decide), rfl⟩, ⟨plain (by decide), rfl⟩, ⟨plain (by decide), rfl⟩, ⟨plain (by decide), rfl⟩,
    ⟨plain (by decide), rfl⟩⟩

/-- Settles O8: ten closed evaluations, of the assembler on each line and of the decoder on each word. -/
theorem workedExampleWords : Obligations.WorkedExampleWords := by
  intro cfg high
  exact ⟨⟨rfl, rfl⟩, ⟨rfl, rfl⟩, ⟨rfl, rfl⟩, ⟨rfl, rfl⟩, ⟨rfl, rfl⟩⟩

end Sys2Proof.Machine
end

section
/-! PROOFS. The assembler's pseudo-instructions (30_encoding R95) as the lines that they stand for. -/

namespace Sys2Proof.Machine

/-- The assembler's numbered words, as the words of one line for each element. -/
theorem flatten_mapIdx_eq_numbered (f : Nat → Nat → EventWord) (i : Nat) (xs : List Nat) :
    (xs.mapIdx (fun k x => [f (i + k) x])).flatten = numbered f i xs := by
  induction xs generalizing i with
  | nil => rfl
  | cons x xs ih =>
    have tail : (fun k x => [f (i + (k + 1)) x]) = fun k x => [f (i + 1 + k) x] := by
      funext k x; rw [Nat.add_assoc i 1 k, Nat.add_comm 1 k]
    rw [List.mapIdx_cons, tail, List.flatten_cons, ih]
    rfl

theorem numbered_zero (f : Nat → Nat → EventWord) (xs : List Nat) :
    numbered f 0 xs = (xs.mapIdx (fun k x => [f k x])).flatten := by
  simpa only [Nat.zero_add] using (flatten_mapIdx_eq_numbered f 0 xs).symm

/-- The assembler counts a round's strobes as R95 does: one TICK advances one voice under Disabled and two under the other
stereo modes (40 R112). -/
theorem strobesPerRound_eq_strobes (cfg : Config) : strobesPerRound cfg = Spec.strobes cfg := by
  have hticks : ticksPerRound cfg = cfg.voiceCount / (if cfg.stereoMode = .disabled then 1 else 2) := by
    unfold ticksPerRound
    cases cfg.stereoMode <;> rfl
  unfold strobesPerRound Spec.strobes
  rw [← hticks]
  cases cfg.sampleRateDivider
  case full => exact (Nat.mul_one _).symm
  case half => exact Nat.mul_comm 2 _

/-- `note C, N` writes the low byte of N, then its high bits with the trigger; N's 11 bits leave none above the three. -/
theorem assemble_note (cfg : Config) (high : Channel → BitVec 3) (c : Channel) (n : BitVec 11) :
    assemble cfg high (.note c n.toNat) =
      assemble cfg high (.regw (floRegister c) (n.toNat % 256))
        ++ assemble cfg high (.regw (fhiRegister c) (0x80 + n.toNat / 256)) := by
  have hhigh : n.toNat / 256 % 8 = n.toNat / 256 := by omega
  simp only [assemble, hhigh, List.cons_append, List.nil_append]

/-- Settles O53: the frequency writes of each channel, the repeated strobes and the numbered lines. -/
theorem pseudoInstructionsExpand : Obligations.PseudoInstructionsExpand := by
  intro cfg high word flo fhi
  have hflo (c : Channel) : flo c = floRegister c := by cases c <;> rfl
  have hfhi (c : Channel) : fhi c = fhiRegister c := by cases c <;> rfl
  have repeated (n : Nat) (w : EventWord) : List.replicate n w = (List.replicate n [w]).flatten :=
    List.flatten_replicate_singleton.symm
  refine ⟨?note, ?noteoff, ?strobes, ?round, ?pattern, ?wavefill⟩
  case note => exact fun c n => hflo c ▸ hfhi c ▸ assemble_note cfg high c n
  case noteoff => exact fun c => hfhi c ▸ rfl
  case strobes => exact fun n => ⟨repeated n _, repeated n _⟩
  case round => exact strobesPerRound_eq_strobes cfg ▸ repeated (strobesPerRound cfg) _
  case pattern => exact fun bytes => numbered_zero _ bytes
  case wavefill => exact fun a bytes => numbered_zero _ bytes

end Sys2Proof.Machine
end

section
/-! PROOFS. TICK and the divider (40_synthesis R111, R122): the work of a processed TICK neither reads nor writes the
divider, so a processed TICK is that work with the divider bit set beside it. -/

namespace Sys2Proof.Machine

/-! ## The work of a processed TICK -/

/-- A processed TICK up to the end of a round: its voices have advanced and `rr` has moved on (40 R112). -/
def State.afterAdvances (s : State) : State :=
  { s.advanceFrom s.rr (voicesPerTick s.cfg.stereoMode) with rr := s.rr + voicesPerTick s.cfg.stereoMode }

theorem State.processTick_eq (s : State) :
    s.processTick =
      if s.rr + voicesPerTick s.cfg.stereoMode = s.cfg.voiceCount then s.afterAdvances.completeRound
      else s.afterAdvances := by
  obtain ⟨vs, l, r, hadvance, -, -⟩ := s.advanceFrom_only s.rr (voicesPerTick s.cfg.stereoMode)
  have hcount : s.afterAdvances.cfg.voiceCount = s.cfg.voiceCount := by rw [State.afterAdvances, hadvance]
  rw [← hcount]
  rfl

/-- `Outputs()` in the statements' words (40 R122). -/
theorem State.outputs_eq (s : State) : s.outputs = Spec.outputs s.cfg.stereoMode s.outLeft s.outRight := by
  unfold State.outputs
  cases s.cfg.stereoMode <;> rfl

/-- What a processed TICK does beside the divider: its work, and the return of the outputs (40 R110, R122). -/
def State.emitTick (s : State) : State := s.processTick.respond s.processTick.outputs

/-- The frame of a processed TICK: only phases, the sums, `rr` and the outputs may change. -/
theorem State.emitTick_only (s : State) :
    ∃ vs l r n ol or, s.emitTick =
        { s with
          voices := vs, leftSum := l, rightSum := r, rr := n, outLeft := ol, outRight := or,
          response := Spec.outputs s.cfg.stereoMode ol or }
      ∧ vs.length = s.voices.length
      ∧ ∀ (v : Nat) (o : Voice), s.voices[v]? = some o → ∃ p, vs[v]? = some { o with phase := p } := by
  obtain ⟨vs, l, r, n, ol, or, htick, hlength, hvoices⟩ := s.processTick_only
  refine ⟨vs, l, r, n, ol, or, ?_, hlength, hvoices⟩
  rw [State.emitTick, State.outputs_eq, htick]
  rfl

@[simp] theorem State.emitTick_cfg (s : State) : s.emitTick.cfg = s.cfg := by
  obtain ⟨vs, l, r, n, ol, or, htick, -, -⟩ := s.emitTick_only
  rw [htick]

@[simp] theorem State.emitTick_div (s : State) : s.emitTick.div = s.div := by
  obtain ⟨vs, l, r, n, ol, or, htick, -, -⟩ := s.emitTick_only
  rw [htick]

/-! ## The divider -/

/-- The state under another divider: the SampleRateDivider of the configuration and the bit `div`. -/
def State.withDivider (s : State) (d : SampleRateDivider) (b : Bool) : State :=
  { s with cfg := { s.cfg with sampleRateDivider := d }, div := b }

theorem State.mix_withDivider (s : State) (d : SampleRateDivider) (b : Bool) (v : Nat) (x : Byte) :
    (s.withDivider d b).mix v x = (s.mix v x).withDivider d b := by
  have hmode : (s.withDivider d b).cfg.stereoMode = s.cfg.stereoMode := rfl
  unfold State.mix
  rw [hmode]
  cases s.cfg.stereoMode
  case disabled => rfl
  case independent => rfl
  case fixedAssignment =>
    by_cases heven : v % 2 = 0
    · simp only [if_pos heven]; rfl
    · simp only [if_neg heven]; rfl

theorem State.advance_withDivider (s : State) (d : SampleRateDivider) (b : Bool) (v : Nat) :
    (s.withDivider d b).advance v = (s.advance v).withDivider d b :=
  State.mix_withDivider (s.setPhase v ((s.voice v).phase + (s.voice v).tune)) d b v _

theorem State.advanceFrom_withDivider (s : State) (d : SampleRateDivider) (b : Bool) (first k : Nat) :
    (s.withDivider d b).advanceFrom first k = (s.advanceFrom first k).withDivider d b := by
  induction k generalizing s first with
  | zero => rfl
  | succ k ih =>
    simp only [State.advanceFrom]
    rw [State.advance_withDivider, ih]

theorem State.afterAdvances_withDivider (s : State) (d : SampleRateDivider) (b : Bool) :
    (s.withDivider d b).afterAdvances = s.afterAdvances.withDivider d b :=
  congrArg (fun t : State => { t with rr := s.rr + voicesPerTick s.cfg.stereoMode })
    (s.advanceFrom_withDivider d b s.rr (voicesPerTick s.cfg.stereoMode))

theorem State.processTick_withDivider (s : State) (d : SampleRateDivider) (b : Bool) :
    (s.withDivider d b).processTick = s.processTick.withDivider d b := by
  rw [State.processTick_eq, State.processTick_eq, State.afterAdvances_withDivider]
  exact (apply_ite (fun t : State => t.withDivider d b) (s.rr + voicesPerTick s.cfg.stereoMode = s.cfg.voiceCount)
    s.afterAdvances.completeRound s.afterAdvances).symm

theorem State.emitTick_withDivider (s : State) (d : SampleRateDivider) (b : Bool) :
    (s.withDivider d b).emitTick = s.emitTick.withDivider d b := by
  rw [State.emitTick, State.processTick_withDivider]
  rfl

/-- The divider bit alone passes through as well. -/
theorem State.emitTick_setDiv (s : State) (b : Bool) :
    ({ s with div := b } : State).emitTick = { s.emitTick with div := b } := by
  calc ({ s with div := b } : State).emitTick
      = s.emitTick.withDivider s.cfg.sampleRateDivider b := s.emitTick_withDivider s.cfg.sampleRateDivider b
    _ = { s.emitTick with div := b } := by rw [← s.emitTick_cfg]; rfl

theorem exec_tick (s : State) : exec .tick s = execTick s := rfl

theorem exec_tick_of_full {s : State} (hfull : s.cfg.sampleRateDivider = .full) : exec .tick s = .next s.emitTick := by
  rw [exec_tick, execTick, hfull]
  rfl

/-- Under Half a strobe on which `div` becomes 1 is processed (40 R111). -/
theorem exec_tick_of_half {s : State} (hhalf : s.cfg.sampleRateDivider = .half) (hdiv : s.div = false) :
    exec .tick s = .next { s.emitTick with div := true } := by
  rw [← s.emitTick_setDiv, exec_tick, execTick, hhalf, hdiv]
  rfl

/-- Under Half a strobe on which `div` becomes 0 holds the outputs and returns them (40 R111, R122). -/
theorem exec_tick_of_skipped {s : State} (hhalf : s.cfg.sampleRateDivider = .half) (hdiv : s.div = true) :
    exec .tick s =
      .next { s with div := false, response := Spec.outputs s.cfg.stereoMode s.outLeft s.outRight } := by
  rw [← s.outputs_eq, exec_tick, execTick, hhalf, hdiv]
  rfl

theorem exec_tick_of_processed {s : State} (h : Spec.processed s) :
    exec .tick s = .next { s.emitTick with div := Spec.dividerAfter s } := by
  unfold Spec.dividerAfter
  cases hdivider : s.cfg.sampleRateDivider
  case full =>
    rw [exec_tick_of_full hdivider, if_neg (by decide), ← s.emitTick_div]
  case half =>
    rw [exec_tick_of_half hdivider (h.resolve_left (by simp [hdivider])), if_pos rfl]

/-- Settles O17: what is processed is the same work under either divider, and it keeps the divider. -/
theorem tickUnderTheDivider : Obligations.TickUnderTheDivider := by
  intro s
  refine ⟨?processed, exec_tick_of_skipped, ?full⟩
  case processed =>
    intro hhalf hdiv
    refine ⟨(s.withDivider .full s.div).emitTick, exec_tick_of_full rfl, ?_⟩
    rw [exec_tick_of_half hhalf hdiv, s.emitTick_withDivider, ← s.emitTick_cfg]
    rfl
  case full =>
    intro hfull
    exact ⟨s.emitTick, exec_tick_of_full hfull, fun b =>
      (exec_tick_of_full (s := { s with div := b }) hfull).trans (congrArg _ (s.emitTick_setDiv b))⟩

/-- Settles O18: a processed TICK is the work above, whose frame is known; a skipped one writes `div` alone. -/
theorem tickReturnsOutputsAndKeepsTheRest : Obligations.TickReturnsOutputsAndKeepsTheRest := by
  intro s
  by_cases hprocessed : Spec.processed s
  case pos =>
    obtain ⟨vs, l, r, n, ol, or, htick, hlength, hvoices⟩ := s.emitTick_only
    refine ⟨_, exec_tick_of_processed hprocessed, ?_⟩
    rw [htick]
    exact ⟨rfl, rfl, hlength, hvoices⟩
  case neg =>
    obtain ⟨hfull, hdiv⟩ := not_or.mp hprocessed
    have hhalf : s.cfg.sampleRateDivider = .half := by
      cases hdivider : s.cfg.sampleRateDivider
      case full => exact absurd hdivider hfull
      case half => rfl
    have hset : s.div = true := (Bool.not_eq_false _).mp hdiv
    exact ⟨_, exec_tick_of_skipped hhalf hset, rfl, rfl, rfl, fun v o ho => ⟨o.phase, ho⟩⟩

end Sys2Proof.Machine
end

section
/-! PROOFS. The arithmetic of a processed TICK (40_synthesis R112 to R121): the model's words read as the statements'
naturals, under the invariant. -/

namespace Sys2Proof.Machine

theorem voicesPerTick_eq_pair (s : State) : voicesPerTick s.cfg.stereoMode = Spec.pair s := by
  unfold Spec.pair
  cases s.cfg.stereoMode <;> rfl

/-! ## One voice (40 R113 to R119) -/

theorem Voice.step_eq (o : Voice) : o.step = { o with phase := BitVec.ofNat 16 (Spec.nextPhase o) } := by
  have hphase : o.phase + o.tune = BitVec.ofNat 16 (Spec.nextPhase o) := by
    apply BitVec.eq_of_toNat_eq
    simp [Spec.nextPhase]
  rw [Voice.step, hphase]

theorem boundAddress_step (cfg : Config) (o : Voice) :
    boundAddress cfg (foldAddress o.step.phase o.waveMask o.waveSelect) = Spec.nextAddress cfg o := by
  have hhigh : (o.step.phase.extractLsb' 8 8).toNat = Spec.nextPhase o / 256 := by
    simp only [Voice.step, BitVec.extractLsb'_toNat, BitVec.toNat_add, Nat.shiftRight_eq_div_pow, Spec.nextPhase]
    omega
  unfold boundAddress foldAddress Spec.nextAddress
  rw [BitVec.toNat_or, BitVec.toNat_and, hhigh]

theorem State.sampleAt_toNat (s : State) (v : Nat) : (s.sampleAt v).toNat = Spec.nextSample s v :=
  congrArg (fun a => (s.readByte a).toNat) (boundAddress_step s.cfg (s.voice v))

theorem State.leftAdd_toNat (s : State) (v : Nat) : (s.leftAdd v).toNat = Spec.leftShare s v := by
  unfold State.leftAdd Spec.leftShare
  rw [← s.sampleAt_toNat]
  cases s.cfg.stereoMode
  case disabled => exact product_toNat _ _
  case independent => exact product_toNat _ _
  case fixedAssignment => by_cases heven : v % 2 = 0 <;> simp [heven, product_toNat]

theorem State.rightAdd_toNat (s : State) (v : Nat) : (s.rightAdd v).toNat = Spec.rightShare s v := by
  unfold State.rightAdd Spec.rightShare
  rw [← s.sampleAt_toNat]
  cases s.cfg.stereoMode
  case disabled => rfl
  case independent => exact product_toNat _ _
  case fixedAssignment => by_cases heven : v % 2 = 0 <;> simp [heven, product_toNat]

/-! ## The voices of one TICK -/

/-- A sum with room for one full product per voice so far and per voice to come takes the voices' shares exactly. -/
theorem sum_shares_toNat {x : BitVec 20} {add : Nat → BitVec 20} {share : Nat → Nat} {first k : Nat}
    (hshare : ∀ v, (add v).toNat = share v) (hadd : ∀ v, (add v).toNat ≤ 65025) (hx : x.toNat ≤ first * 65025)
    (hroom : (first + k) * 65025 < 2 ^ 20) :
    (x + ((List.range k).map (fun j => add (first + j))).sum).toNat = x.toNat + Spec.total share first k := by
  have hbound : ∀ y ∈ (List.range k).map (fun j => add (first + j)), y.toNat ≤ 65025 := by
    intro y hy
    obtain ⟨j, -, rfl⟩ := List.mem_map.mp hy
    exact hadd _
  have hexact := (sum_toNat _ x (first * 65025) hx hbound (by simpa [← Nat.add_mul] using hroom)).1
  rw [hexact, List.map_map]
  simp only [Function.comp_def, hshare]
  rfl

/-- `left_sum` after the advances of one TICK, before a round's end. -/
def State.mixedLeft (s : State) : Nat := s.leftSum.toNat + Spec.total (Spec.leftShare s) s.rr (Spec.pair s)

/-- `right_sum` after the advances of one TICK, before a round's end. -/
def State.mixedRight (s : State) : Nat := s.rightSum.toNat + Spec.total (Spec.rightShare s) s.rr (Spec.pair s)

theorem State.Inv.pair_le {s : State} (h : s.Inv) : s.rr + Spec.pair s ≤ s.cfg.voiceCount :=
  voicesPerTick_eq_pair s ▸ h.pair_fits

/-- At most ten products of a round fit in the 20 bits of a sum (40 R124). -/
theorem State.Inv.sum_room {s : State} (h : s.Inv) : (s.rr + Spec.pair s) * 65025 < 2 ^ 20 := by
  have hpair := h.pair_le
  have hten := h.voices_le_ten
  omega

/-- The state after the advances of one TICK, with exact sums and with every phase. -/
theorem State.Inv.afterAdvances_eq {s : State} (h : s.Inv) :
    s.mixedLeft < 2 ^ 20 ∧ s.mixedRight < 2 ^ 20 ∧
    s.afterAdvances =
      { s with
        voices := Spec.advanced s s.rr (Spec.pair s), leftSum := BitVec.ofNat 20 s.mixedLeft,
        rightSum := BitVec.ofNat 20 s.mixedRight, rr := s.rr + Spec.pair s } := by
  obtain ⟨vs, hadvance, -, hvoices⟩ := State.advanceFrom_sums (s := s) s.rr (Spec.pair s) (h.voiceFile ▸ h.pair_le)
  have hleft := sum_shares_toNat s.leftAdd_toNat (leftAdd_le s) h.leftBound h.sum_room
  have hright := sum_shares_toNat s.rightAdd_toNat (rightAdd_le s) h.rightBound h.sum_room
  have hvs : vs = Spec.advanced s s.rr (Spec.pair s) := by
    apply List.ext_getElem?
    intro n
    simp only [hvoices, Spec.advanced, List.getElem?_mapIdx, Voice.step_eq]
  refine ⟨?_, ?_, ?_⟩
  · rw [State.mixedLeft, ← hleft]; exact BitVec.isLt _
  · rw [State.mixedRight, ← hright]; exact BitVec.isLt _
  · rw [State.afterAdvances, voicesPerTick_eq_pair, hadvance, hvs, State.mixedLeft, State.mixedRight, ← hleft, ← hright,
      BitVec.ofNat_toNat, BitVec.ofNat_toNat, BitVec.setWidth_eq, BitVec.setWidth_eq]

/-! ## The whole TICK -/

theorem extractLsb'_ofNat_eq_outputByte (n : Nat) : (BitVec.ofNat 20 n).extractLsb' 8 8 = Spec.outputByte n := by
  apply BitVec.eq_of_toNat_eq
  simp only [Spec.outputByte, BitVec.extractLsb'_toNat, BitVec.toNat_ofNat, Nat.shiftRight_eq_div_pow]
  omega

/-- Inside a round the outputs hold (40 R122). -/
theorem State.Inv.emitTick_inside {s : State} (h : s.Inv) (hlt : s.rr + Spec.pair s < s.cfg.voiceCount) :
    s.emitTick =
      { s with
        voices := Spec.advanced s s.rr (Spec.pair s), leftSum := BitVec.ofNat 20 s.mixedLeft,
        rightSum := BitVec.ofNat 20 s.mixedRight, rr := s.rr + Spec.pair s,
        response := Spec.outputs s.cfg.stereoMode s.outLeft s.outRight } := by
  obtain ⟨-, -, hadvances⟩ := h.afterAdvances_eq
  rw [State.emitTick, State.outputs_eq, State.processTick_eq, voicesPerTick_eq_pair,
    if_neg (Nat.ne_of_lt hlt), hadvances]
  rfl

/-- `out_right` after the last TICK of a round: Disabled has no right side (40 R120). -/
def State.roundRight (s : State) : Byte :=
  if s.cfg.stereoMode = .disabled then s.outRight else Spec.outputByte s.mixedRight

/-- On the TICK that completes a round the outputs take the sums' bits 15:8 (40 R120, R121). -/
theorem State.Inv.emitTick_last {s : State} (h : s.Inv) (hlast : s.rr + Spec.pair s = s.cfg.voiceCount) :
    s.emitTick =
      { s with
        voices := Spec.advanced s s.rr (Spec.pair s), leftSum := 0, rightSum := 0, rr := 0,
        outLeft := Spec.outputByte s.mixedLeft, outRight := s.roundRight,
        response := Spec.outputs s.cfg.stereoMode (Spec.outputByte s.mixedLeft) s.roundRight } := by
  obtain ⟨-, -, hadvances⟩ := h.afterAdvances_eq
  rw [State.emitTick, State.outputs_eq, State.processTick_eq, voicesPerTick_eq_pair, if_pos hlast, hadvances,
    State.roundRight, ← extractLsb'_ofNat_eq_outputByte, ← extractLsb'_ofNat_eq_outputByte]
  rfl

/-- Settles O16: the sums are exact under the invariant, and a processed TICK is the work above beside the divider. -/
theorem processedTickAdvancesMixesAndEmits : Obligations.ProcessedTickAdvancesMixesAndEmits := by
  intro s h hprocessed left right outR
  obtain ⟨hleft, hright, -⟩ := h.afterAdvances_eq
  refine ⟨h.pair_le, hleft, hright, fun hlt => ?inside, fun hlast => ?last⟩
  case inside => rw [exec_tick_of_processed hprocessed, h.emitTick_inside hlt]; rfl
  case last => rw [exec_tick_of_processed hprocessed, h.emitTick_last hlast]; rfl

end Sys2Proof.Machine
end

section
/-! PROOFS. Frequency conversion (41_frequency_conversion R141, R142): the machine's one division on naturals truncates the
exact rational. -/

namespace Sys2Proof.Machine

theorem fitTune_toNat_of_lt {t : Nat} (cfg : Config) (h : t < 65536) : (fitTune cfg t).toNat = t := by
  rw [fitTune, if_pos h, BitVec.toNat_ofNat, Nat.mod_eq_of_lt h]

theorem fitTune_of_le {t : Nat} (cfg : Config) (h : 65536 ≤ t) : fitTune cfg t = Config.tuneOverflow cfg t :=
  if_neg (Nat.not_lt.mpr h)

/-- The exact rational of a field as one quotient of naturals, the one that the machine truncates. -/
theorem exactTuning_eq_div (cfg : Config) (n : BitVec 11) :
    Spec.exactTuning cfg n =
      ((32768 * 2 ^ 14 * cfg.voiceCount * cfg.timerBaseRate.den : ℕ) : ℚ)
        / (((2048 - n.toNat) * cfg.timerBaseRate.num : ℕ) : ℚ) := by
  have hden : ((2048 - n.toNat : ℕ) : ℚ) = 2048 - n.toNat := by
    exact_mod_cast Nat.cast_sub (R := ℚ) (Nat.le_of_lt n.isLt)
  simp only [Spec.exactTuning, Nat.cast_mul, Nat.cast_pow, Nat.cast_ofNat, hden]
  rw [div_div_eq_mul_div, div_mul_eq_mul_div, div_mul_eq_mul_div, div_mul_eq_mul_div, div_div]

/-- The single truncation of 41 R144 is the floor of the exact rational. -/
theorem floor_exactTuning (cfg : Config) (n : BitVec 11) :
    ⌊Spec.exactTuning cfg n⌋ = (tuningFloor cfg (fieldFrequency n) : ℤ) := by
  rw [exactTuning_eq_div, Rat.floor_natCast_div_natCast]
  rfl

/-- Settles O52: `tuneOf` fits the floor of the exact rational into 16 bits, at either side of 65536. -/
theorem tuneOfIsTheExactFloor : Obligations.TuneOfIsTheExactFloor := by
  intro cfg n _
  rw [floor_exactTuning, Int.toNat_natCast]
  refine ⟨fun hfits => ?fits, fun hover => ?overflows⟩
  case fits => exact congrArg Nat.cast (fitTune_toNat_of_lt cfg (by exact_mod_cast hfits))
  case overflows => exact fitTune_of_le cfg (by exact_mod_cast hover)

end Sys2Proof.Machine
end

section
/-! PROOFS. The register interface (42_register_interface): the fields of a data byte as the statements' naturals, the
REGW events by channel, and what each of them writes. -/

namespace Sys2Proof.Machine

/-! ## The fields of a data byte (30_encoding R88 to R90) -/

/-- A bit field as a number: shifted down, then cut to its width. -/
theorem extractLsb'_eq_ofNat {w : Nat} (x : BitVec w) (start len : Nat) :
    x.extractLsb' start len = BitVec.ofNat len (x.toNat / 2 ^ start % 2 ^ len) := by
  apply BitVec.eq_of_toNat_eq
  simp [Nat.shiftRight_eq_div_pow]

theorem sweepPeriodOf_eq (d : Byte) : sweepPeriodOf d = BitVec.ofNat 3 (d.toNat / 16 % 8) := extractLsb'_eq_ofNat d 4 3

theorem low3_eq_ofNat (d : Byte) : d.extractLsb' 0 3 = BitVec.ofNat 3 (d.toNat % 8) := by
  simpa using extractLsb'_eq_ofNat d 0 3

theorem dutyBase_dutyOf (d : Byte) : dutyBase (dutyOf d) = BitVec.ofNat 8 (0x80 + 0x20 * (d.toNat / 64)) := by
  have hduty : (dutyOf d).toNat = d.toNat / 64 := by
    rw [dutyOf, extractLsb'_eq_ofNat, BitVec.toNat_ofNat]
    omega
  rw [dutyBase, hduty]

theorem shortLengthOf_toNat (d : Byte) : (shortLengthOf d).toNat = d.toNat % 64 := by
  rw [shortLengthOf, extractLsb'_eq_ofNat, BitVec.toNat_setWidth, BitVec.toNat_ofNat]
  omega

theorem shortLengthOf_eq (d : Byte) : shortLengthOf d = BitVec.ofNat 8 (d.toNat % 64) := by
  rw [← shortLengthOf_toNat, BitVec.ofNat_toNat, BitVec.setWidth_eq]

theorem shortCountOf_eq (d : Byte) : shortCountOf d = BitVec.ofNat 9 (64 - d.toNat % 64) := by
  rw [shortCountOf, shortLengthOf_toNat]

/-- Masking with 0xF0 clears the low nibble. -/
theorem volumeOf_eq : ∀ d : Byte, volumeOf d = BitVec.ofNat 8 (d.toNat / 16 * 16) := by decide

theorem latchLow_eq_withLow (f : BitVec 11) (d : Byte) : latchLow f d = Spec.withLow f d := by
  apply BitVec.eq_of_toNat_eq
  rw [latchLow, Spec.withLow, extractLsb'_eq_ofNat, BitVec.toNat_append, BitVec.toNat_ofNat, BitVec.toNat_ofNat,
    ← Nat.shiftLeft_add_eq_or_of_lt d.isLt, Nat.shiftLeft_eq]
  omega

theorem latchHigh_eq_withHigh (f : BitVec 11) (d : Byte) : latchHigh f (fnumHighOf d) = Spec.withHigh f d := by
  apply BitVec.eq_of_toNat_eq
  rw [latchHigh, Spec.withHigh, BitVec.toNat_append, ← Nat.shiftLeft_add_eq_or_of_lt (BitVec.isLt _),
    Nat.shiftLeft_eq, fnumHighOf, extractLsb'_eq_ofNat, extractLsb'_eq_ofNat]
  simp only [BitVec.toNat_ofNat]
  omega

/-- LVL2's table is read at `d[6:5]`. -/
theorem waveLevelOf_eq (d : Byte) : waveLevelOf d = [0x00, 0xF0, 0x78, 0x3C].getD (d.toNat / 32 % 4) 0 := by
  have hindex : (d.extractLsb' 5 2).toNat = d.toNat / 32 % 4 := by
    rw [extractLsb'_eq_ofNat, BitVec.toNat_ofNat]
    omega
  have hlt : d.toNat / 32 % 4 < 4 := Nat.mod_lt _ (by decide)
  rw [waveLevelOf, hindex]
  interval_cases d.toNat / 32 % 4 <;> rfl

theorem patternHighOf_eq (d : Byte) : patternHighOf d = BitVec.ofNat 8 (d.toNat / 16) := by
  apply BitVec.eq_of_toNat_eq
  rw [patternHighOf, extractLsb'_eq_ofNat]
  simp only [BitVec.toNat_setWidth, BitVec.toNat_ofNat]
  omega

theorem patternLowOf_eq (d : Byte) : patternLowOf d = BitVec.ofNat 8 (d.toNat % 16) := by
  apply BitVec.eq_of_toNat_eq
  rw [patternLowOf, extractLsb'_eq_ofNat]
  simp only [BitVec.toNat_setWidth, BitVec.toNat_ofNat]
  omega

/-! ## The REGW events, by channel (42 R150) -/

/-- The FHI event of a channel. -/
def fhiEvent : Channel → Byte → Instr
  | .ch0 => .regwFhi0
  | .ch1 => .regwFhi1
  | .ch2 => .regwFhi2

/-- The FLO event of a channel. -/
def floEvent : Channel → Byte → Instr
  | .ch0 => .regwFlo0
  | .ch1 => .regwFlo1
  | .ch2 => .regwFlo2

/-- The ENV event of a square channel. -/
def envEvent : SquareChannel → Byte → Instr
  | .sq0 => .regwEnv0
  | .sq1 => .regwEnv1

/-- The LENDUTY event of a square channel. -/
def lendutyEvent : SquareChannel → Byte → Instr
  | .sq0 => .regwLenduty0
  | .sq1 => .regwLenduty1

section
variable {s : State}

/-- With the interpreter a register write completes and returns nothing. -/
theorem registerWrite_of_present (hp : Spec.present s) (write : State → State) :
    registerWrite s write = .next ((write s).respond .nothing) :=
  registerWrite_next.mpr ⟨hp, rfl⟩

theorem exec_fhiEvent (hp : Spec.present s) (c : Channel) (d : Byte) :
    exec (fhiEvent c d) s = .next ((s.writeFhi c d).respond .nothing) := by
  cases c <;> exact registerWrite_of_present hp (fun t => t.writeFhi _ d)

theorem exec_floEvent (hp : Spec.present s) (c : Channel) (d : Byte) :
    exec (floEvent c d) s = .next ((s.writeFlo c d).respond .nothing) := by
  cases c <;> exact registerWrite_of_present hp (fun t => t.writeFlo _ d)

theorem exec_envEvent (hp : Spec.present s) (c : SquareChannel) (d : Byte) :
    exec (envEvent c d) s = .next ((s.writeEnv c d).respond .nothing) := by
  cases c <;> exact registerWrite_of_present hp (fun t => t.writeEnv _ d)

theorem exec_lendutyEvent (hp : Spec.present s) (c : SquareChannel) (d : Byte) :
    exec (lendutyEvent c d) s = .next ((s.writeLenduty c d).respond .nothing) := by
  cases c <;> exact registerWrite_of_present hp (fun t => t.writeLenduty _ d)

theorem exec_regwSweep0 (hp : Spec.present s) (d : Byte) :
    exec (.regwSweep0 d) s = .next ((s.setSweep { s.sweep with
      period := sweepPeriodOf d, negate := sweepNegateOf d, shift := sweepShiftOf d }).respond .nothing) :=
  registerWrite_of_present hp (fun t =>
    t.setSweep { t.sweep with period := sweepPeriodOf d, negate := sweepNegateOf d, shift := sweepShiftOf d })

theorem exec_regwLen2 (hp : Spec.present s) (d : Byte) :
    exec (.regwLen2 d) s =
      .next ((s.setLen .ch2 { s.len .ch2 with loadValue := d, counter := longCountOf d }).respond .nothing) :=
  registerWrite_of_present hp (fun t => t.setLen .ch2 { t.len .ch2 with loadValue := d, counter := longCountOf d })

theorem exec_regwLvl2 (hp : Spec.present s) (d : Byte) :
    exec (.regwLvl2 d) s = .next ((s.setWaveLevel (waveLevelOf d)).respond .nothing) :=
  registerWrite_of_present hp (fun t => t.setWaveLevel (waveLevelOf d))

theorem exec_regwPat (hp : Spec.present s) (k : BitVec 4) (d : Byte) :
    exec (.regwPat k d) s = .next (((s.writeByte (patternAddress k) (patternHighOf d)).writeByte
      (patternAddress k + 1) (patternLowOf d)).respond .nothing) :=
  registerWrite_of_present hp (fun t =>
    (t.writeByte (patternAddress k) (patternHighOf d)).writeByte (patternAddress k + 1) (patternLowOf d))

end

/-! ## What the writes leave -/

/-- A change of one voice, in the statements' words. -/
theorem State.modifyVoice_eq (s : State) (v : Nat) (f : Voice → Voice) :
    s.modifyVoice v f = { s with voices := Spec.mapVoice s v f } :=
  congrArg (fun vs => { s with voices := vs }) (s.modifyVoice_mapIdx v f)

theorem State.readByte_writeByte (s : State) (a b : Nat) (x : Byte) :
    (s.writeByte a x).readByte b = if b = a then x else s.readByte b :=
  memRead_memWrite s.cfg s.wavetable a b x

/-- The pattern RAM after PAT: neither of the two writes hides the other (42 R167). -/
theorem State.readByte_pattern (s : State) (k : BitVec 4) (d : Byte) (a : Nat) :
    ((s.writeByte (patternAddress k) (patternHighOf d)).writeByte (patternAddress k + 1) (patternLowOf d)).readByte a =
      if a = 0x40 + 2 * k.toNat then BitVec.ofNat 8 (d.toNat / 16)
      else if a = 0x41 + 2 * k.toNat then BitVec.ofNat 8 (d.toNat % 16)
      else s.readByte a := by
  rw [State.readByte_writeByte, State.readByte_writeByte, patternHighOf_eq, patternLowOf_eq, patternAddress,
    patternBase]
  by_cases hlow : a = 0x41 + 2 * k.toNat
  · rw [if_pos (by omega), if_neg (by omega), if_pos hlow]
  · rw [if_neg (by omega), if_neg hlow]

theorem State.writeFlo_eq (s : State) (c : Channel) (d : Byte) :
    s.writeFlo c d = s.setFnum c (Spec.withLow (s.fnum c) d) := by
  rw [State.writeFlo, latchLow_eq_withLow]

theorem State.writeEnv_eq (s : State) (c : SquareChannel) (d : Byte) :
    s.writeEnv c d = s.setEnv c
      { startingVolume := BitVec.ofNat 8 (d.toNat / 16 * 16), direction := directionOf d,
        period := BitVec.ofNat 3 (d.toNat % 8), counter := BitVec.ofNat 3 (d.toNat % 8) } := by
  rw [State.writeEnv, volumeOf_eq, envPeriodOf, low3_eq_ofNat]

theorem State.writeLenduty_eq (s : State) (c : SquareChannel) (d : Byte) :
    s.writeLenduty c d =
      { s with
        voices := Spec.mapVoice s c.channel.voice (fun o =>
          { o with waveSelect := BitVec.ofNat 8 (0x80 + 0x20 * (d.toNat / 64)) }) }.setLen c.channel
        { s.len c.channel with
          loadValue := BitVec.ofNat 8 (d.toNat % 64), counter := BitVec.ofNat 9 (64 - d.toNat % 64) } := by
  rw [State.writeLenduty, dutyBase_dutyOf, shortLengthOf_eq, shortCountOf_eq, State.setWaveSelect, State.modifyVoice_eq]
  cases c <;> rfl

/-- The latches of an FHI write: `fnum[c][10:8]` and the length enable (42 R157). -/
def State.latchFhi (s : State) (c : Channel) (d : Byte) : State :=
  (s.setFnum c (Spec.withHigh (s.fnum c) d)).setLen c { s.len c with enabled := d.getLsbD 6 }

theorem State.writeFhi_eq (s : State) (c : Channel) (d : Byte) :
    s.writeFhi c d = if d.getLsbD 7 then (s.latchFhi c d).trigger c else (s.latchFhi c d).chanAmpWrite c 0 := by
  rw [State.writeFhi, latchHigh_eq_withHigh]
  cases c <;> rfl

/-- A trigger, where gains are stored as the stereo mode says: one change of the channel's voice, then the reloads. -/
theorem State.trigger_eq {s : State} (h : ∀ o ∈ s.voices, o.gain.fits s.cfg.stereoMode) (c : Channel) :
    s.trigger c =
      (s.modifyVoice c.voice (fun o =>
        { o with
          phase := 0, tune := tuneOf s.cfg (s.fnum c),
          gain := Spec.bothGains s.cfg.stereoMode (s.startingVolume c) })).triggerReloads c := by
  rw [State.trigger, State.chanAmpWrite_eq h, State.setPhase, State.setTune, State.modifyVoice_modifyVoice,
    State.modifyVoice_modifyVoice]
  cases c <;> rfl

section
variable {s : State} (h : s.Inv) (hp : Spec.present s) (c : Channel) {d : Byte}
include h

theorem State.Inv.latchFhi_gains : ∀ o ∈ (s.latchFhi c d).voices, o.gain.fits (s.latchFhi c d).cfg.stereoMode := by
  simpa [State.latchFhi] using h.gains

include hp

/-- FHI with the trigger bit: the trigger reads the frequency this write has latched (42 R157, R158). -/
theorem exec_fhiEvent_of_trigger (hd : d.getLsbD 7 = true) :
    exec (fhiEvent c d) s = .next (({ s.latchFhi c d with
      voices := Spec.mapVoice s c.voice (fun o =>
        { o with
          phase := 0, tune := tuneOf s.cfg (Spec.withHigh (s.fnum c) d),
          gain := Spec.bothGains s.cfg.stereoMode (s.startingVolume c) }) }.triggerReloads c).respond .nothing) := by
  rw [exec_fhiEvent hp, State.writeFhi_eq, if_pos hd, State.trigger_eq (h.latchFhi_gains c), State.modifyVoice_eq]
  cases c <;> rfl

/-- FHI without the trigger bit: the channel's amplitude is forced to 0 (42 R157). -/
theorem exec_fhiEvent_of_mute (hd : d.getLsbD 7 = false) :
    exec (fhiEvent c d) s = .next ({ s.latchFhi c d with
      voices := Spec.mapVoice s c.voice (fun o =>
        { o with gain := Spec.bothGains s.cfg.stereoMode 0 }) }.respond .nothing) := by
  rw [exec_fhiEvent hp, State.writeFhi_eq, if_neg (Bool.eq_false_iff.mp hd), State.chanAmpWrite_eq (h.latchFhi_gains c),
    State.modifyVoice_eq]
  cases c <;> rfl

end

/-! ## The statements -/

/-- Settles O32: the FHI rules at channel 0, whose trigger reloads envelope 0 and loads the sweep from the latched
field. -/
theorem fhi0TriggersOrMutes : Obligations.Fhi0TriggersOrMutes :=
  fun _ _ h hp => ⟨exec_fhiEvent_of_trigger h hp .ch0, exec_fhiEvent_of_mute h hp .ch0⟩

/-- Settles O33: the FHI rules at channel 1, whose trigger reloads envelope 1 alone. -/
theorem fhi1TriggersOrMutes : Obligations.Fhi1TriggersOrMutes :=
  fun _ _ h hp => ⟨exec_fhiEvent_of_trigger h hp .ch1, exec_fhiEvent_of_mute h hp .ch1⟩

/-- Settles O34: the FHI rules at channel 2, whose trigger starts at the wave level and reloads nothing. -/
theorem fhi2TriggersOrMutes : Obligations.Fhi2TriggersOrMutes :=
  fun _ _ h hp => ⟨exec_fhiEvent_of_trigger h hp .ch2, exec_fhiEvent_of_mute h hp .ch2⟩

/-- Settles O28: the write sets three fields of the sweep, and each is its bit field of the data byte. -/
theorem sweep0WritesTheSweepParameters : Obligations.Sweep0WritesTheSweepParameters := by
  intro s d hp
  rw [exec_regwSweep0 hp, sweepPeriodOf_eq, sweepShiftOf, low3_eq_ofNat]
  rfl

/-- Settles O29: one rule for both square channels, read at each of them. -/
theorem lendutySelectsAndLoads : Obligations.LendutySelectsAndLoads := by
  intro s d hp select loaded
  have hwrite (c : SquareChannel) := exec_lendutyEvent hp c d
  simp only [State.writeLenduty_eq] at hwrite
  exact ⟨hwrite .sq0, hwrite .sq1⟩

/-- Settles O30: one rule for both square channels, read at each of them. -/
theorem envWritesTheEnvelope : Obligations.EnvWritesTheEnvelope := by
  intro s d hp written
  have hwrite (c : SquareChannel) := exec_envEvent hp c d
  simp only [State.writeEnv_eq] at hwrite
  exact ⟨hwrite .sq0, hwrite .sq1⟩

/-- Settles O31: one rule for the three channels, read at each of them. -/
theorem floLatchesTheLowByte : Obligations.FloLatchesTheLowByte := by
  intro s d hp
  have hwrite (c : Channel) := exec_floEvent hp c d
  simp only [State.writeFlo_eq] at hwrite
  exact ⟨hwrite .ch0, hwrite .ch1, hwrite .ch2⟩

/-- Settles O35: LEN2's write is the rule's own, and LVL2's is the table's entry at its index. -/
theorem len2LoadsAndLvl2SetsTheLevel : Obligations.Len2LoadsAndLvl2SetsTheLevel := by
  intro s d hp
  refine ⟨exec_regwLen2 hp d, ?level⟩
  case level =>
    rw [exec_regwLvl2 hp, waveLevelOf_eq]
    rfl

/-- Settles O36: the pattern RAM by its lemma; all else is as it was, since a byte write changes the wavetable alone. -/
theorem patWritesTwoSamples : Obligations.PatWritesTwoSamples :=
  fun s k d hp => ⟨_, exec_regwPat hp k d, s.readByte_pattern k d, rfl⟩

end Sys2Proof.Machine
end

section
/-! PROOFS. The units of the frame sequencer (43_frame_sequencer R194 to R200): the shared countdown along its calls, and
one rule for each way a length, envelope or sweep unit can go. -/

namespace Sys2Proof.Machine

/-! ## Counting down (43 R194) -/

/-- A bit vector that is not 0 counts one down as its number does. -/
theorem sub_one_eq_ofNat {w : Nat} {x : BitVec w} (hx : 1 ≤ x.toNat) : x - 1#w = BitVec.ofNat w (x.toNat - 1) := by
  have hone : 1 < 2 ^ w := Nat.lt_of_le_of_lt hx x.isLt
  rw [← BitVec.ofNat_sub_ofNat_of_le x.toNat 1 hone hx, BitVec.ofNat_toNat, BitVec.setWidth_eq]

/-- One call fires exactly where the counter has at most one more to count. -/
theorem countDown_fires_iff (p c : BitVec 3) : (countDown p c).2 = true ↔ c.toNat ≤ 1 := by
  rcases Nat.lt_or_ge c.toNat 2 with hlow | hhigh
  · simp [countDown_fires p c (by omega), show c.toNat ≤ 1 by omega]
  · simp [countDown_counts p c hhigh, show ¬ c.toNat ≤ 1 by omega]

/-- The remainder of the next number, in terms of the remainder of this one. -/
theorem succ_mod_eq_ite {p : Nat} (hp : 0 < p) (n : Nat) :
    (n + 1) % p = if n % p + 1 = p then 0 else n % p + 1 := by
  have hlt : n % p < p := Nat.mod_lt n hp
  rw [← Nat.mod_add_mod]
  split
  case isTrue hwrap => rw [hwrap, Nat.mod_self]
  case isFalse hbelow => exact Nat.mod_eq_of_lt (by omega)

/-- The counter along the calls that follow a reload: the period less the calls since the last firing. -/
theorem countedDown_toNat {p : BitVec 3} (hp : 0 < p.toNat) (n : Nat) :
    (Spec.countedDown p n).toNat = p.toNat - n % p.toNat := by
  induction n with
  | zero => simp [Spec.countedDown]
  | succ n ih =>
    have hlt : n % p.toNat < p.toNat := Nat.mod_lt n hp
    rw [Spec.countedDown, succ_mod_eq_ite hp]
    split
    case isTrue hwrap => rw [countDown_fires p _ (by omega), Nat.sub_zero]
    case isFalse hbelow =>
      rw [countDown_counts p _ (by omega), BitVec.toNat_ofNat]
      omega

/-- Settles O24: by the counter's closed form, the call that fires is the one that completes a multiple of the
period. -/
theorem countdownFiresEveryPeriod : Obligations.CountdownFiresEveryPeriod := by
  intro p hp
  have hpos : 0 < p.toNat := Nat.pos_of_ne_zero fun hzero => hp (BitVec.eq_of_toNat_eq hzero)
  refine ⟨fun n => ⟨countedDown_toNat hpos n, ?fires⟩, countDown_fires p 0 (by decide)⟩
  case fires =>
    have hlt : n % p.toNat < p.toNat := Nat.mod_lt n hpos
    rw [countDown_fires_iff, countedDown_toNat hpos, succ_mod_eq_ite hpos]
    split <;> omega

/-! ## The amplitude of a unit's channel (42 R152) -/

/-- The voice file with both gains of a channel's voice at x. -/
def State.gained (s : State) (c : Channel) (x : Byte) : List Voice :=
  Spec.mapVoice s c.voice (fun o => { o with gain := Spec.bothGains s.cfg.stereoMode x })

/-- `ChanAmpWrite` in a state with the voices and the configuration of a constructed one. -/
theorem State.Inv.chanAmpWrite_eq {s t : State} (h : s.Inv) (hvoices : t.voices = s.voices) (hcfg : t.cfg = s.cfg)
    (c : Channel) (x : Byte) : t.chanAmpWrite c x = { t with voices := s.gained c x } := by
  have hgains : ∀ o ∈ t.voices, o.gain.fits t.cfg.stereoMode := by rw [hvoices, hcfg]; exact h.gains
  rw [State.chanAmpWrite_eq hgains, State.modifyVoice_eq, State.gained, Spec.mapVoice, Spec.mapVoice, hvoices, hcfg]
  rfl

/-! ## The length unit (43 R195) -/

/-- The state with a channel's length counter one down. -/
def State.countLen (s : State) (c : Channel) : State :=
  s.setLen c { s.len c with counter := BitVec.ofNat 9 ((s.len c).counter.toNat - 1) }

section
variable {s : State} {c : Channel}

theorem State.lengthUnit_of_idle (h : ¬ (s.len c).counting) : s.lengthUnit c = s := if_neg h

/-- A counting unit counts down, and the channel is muted where that leaves 0. -/
theorem State.lengthUnit_of_enabled (henabled : (s.len c).enabled = true) (hcount : 1 ≤ (s.len c).counter.toNat) :
    s.lengthUnit c =
      if (s.len c).counter.toNat = 1 then (s.countLen c).chanAmpWrite c 0 else s.countLen c := by
  have hcounting : (s.len c).counting := ⟨henabled, fun hzero => by simp [hzero] at hcount⟩
  have hlast : (s.len c).counter - 1 = 0 ↔ (s.len c).counter.toNat = 1 := by
    rw [sub_eq_zero, ← BitVec.toNat_inj]
    rfl
  rw [State.countLen, ← sub_one_eq_ofNat hcount, ← if_congr hlast rfl rfl]
  exact if_pos hcounting

theorem State.Inv.chanAmpWrite_countLen (h : s.Inv) (x : Byte) :
    (s.countLen c).chanAmpWrite c x = { s.countLen c with voices := s.gained c x } :=
  h.chanAmpWrite_eq (s.setLen_voices c _) (s.setLen_cfg c _) c x

end

/-- Settles O21: idle, counting on, and the count from 1 to 0, which alone mutes. -/
theorem lengthUnitCountsAndMutes : Obligations.LengthUnitCountsAndMutes := by
  intro s c h l counted
  refine ⟨?idle, ?counts, ?mutes⟩
  case idle =>
    rintro (hdisabled | hzero)
    · exact State.lengthUnit_of_idle fun hcounting => by simp [l, hcounting.1] at hdisabled
    · exact State.lengthUnit_of_idle fun hcounting => hcounting.2 (BitVec.eq_of_toNat_eq hzero)
  case counts =>
    intro henabled hcount
    exact (State.lengthUnit_of_enabled henabled (Nat.le_of_lt hcount)).trans (if_neg (Nat.ne_of_gt hcount))
  case mutes =>
    intro henabled hone
    rw [State.lengthUnit_of_enabled henabled hone.ge, if_pos hone, h.chanAmpWrite_countLen]
    rfl

/-! ## The envelope unit (43 R196, R197) -/

/-- The 8-bit comparison with 255 is the saturation of 43 R197. -/
theorem stepAmplitude_increase : ∀ a : Byte, stepAmplitude .increase a = BitVec.ofNat 8 (min (a.toNat + 1) 255) := by
  decide

theorem stepAmplitude_decrease {a : Byte} (ha : a.toNat ≠ 0) :
    stepAmplitude .decrease a = BitVec.ofNat 8 (a.toNat - 1) :=
  sub_one_eq_ofNat (Nat.pos_of_ne_zero ha)

section
variable {s : State} {c : SquareChannel}

theorem State.envelopeUnit_of_off (hoff : (s.env c).period = 0) : s.envelopeUnit c = s := if_neg (not_not.mpr hoff)

theorem State.envelopeUnit_of_counting (hon : (s.env c).period ≠ 0) (hcount : 2 ≤ (s.env c).counter.toNat) :
    s.envelopeUnit c =
      s.setEnv c { s.env c with counter := BitVec.ofNat 3 ((s.env c).counter.toNat - 1) } := by
  refine (if_pos hon).trans ?_
  rw [countDown_counts _ _ hcount]
  exact if_neg fun hfires => Bool.false_ne_true hfires.1

/-- A firing unit reloads, and then steps an amplitude that is not 0. -/
theorem State.envelopeUnit_of_firing (hon : (s.env c).period ≠ 0) (hfire : (s.env c).counter.toNat ≤ 1) :
    s.envelopeUnit c =
      if (s.reloadEnvelope c).chanAmpRead c.channel ≠ 0 then
        (s.reloadEnvelope c).chanAmpWrite c.channel
          (stepAmplitude (s.env c).direction ((s.reloadEnvelope c).chanAmpRead c.channel))
      else s.reloadEnvelope c := by
  refine (if_pos hon).trans ?_
  rw [countDown_fires _ _ hfire]
  exact if_congr (and_iff_right rfl) rfl rfl

/-- The reload leaves the amplitude that is read. -/
theorem State.chanAmpRead_reloadEnvelope (d : Channel) :
    (s.reloadEnvelope c).chanAmpRead d = (s.voice d.voice).gain.left :=
  congrArg (fun o : Voice => o.gain.left)
    (State.voice_congr (s.setEnv_voices c _) (congrArg Config.stereoMode (s.setEnv_cfg c _)) d.voice)

theorem State.envelopeUnit_of_silent (hon : (s.env c).period ≠ 0) (hfire : (s.env c).counter.toNat ≤ 1)
    (hsilent : (s.voice c.channel.voice).gain.left.toNat = 0) : s.envelopeUnit c = s.reloadEnvelope c := by
  rw [State.envelopeUnit_of_firing hon hfire, State.chanAmpRead_reloadEnvelope]
  exact if_neg (not_not.mpr (BitVec.eq_of_toNat_eq hsilent))

theorem State.Inv.envelopeUnit_of_loud (h : s.Inv) (hon : (s.env c).period ≠ 0)
    (hfire : (s.env c).counter.toNat ≤ 1) (hloud : (s.voice c.channel.voice).gain.left.toNat ≠ 0) :
    s.envelopeUnit c =
      { s.reloadEnvelope c with
        voices := s.gained c.channel (stepAmplitude (s.env c).direction (s.voice c.channel.voice).gain.left) } := by
  rw [State.envelopeUnit_of_firing hon hfire, State.chanAmpRead_reloadEnvelope,
    if_pos fun hzero => hloud (congrArg BitVec.toNat hzero)]
  exact h.chanAmpWrite_eq (s.setEnv_voices c _) (s.setEnv_cfg c _) c.channel _

end

/-- Settles O22: off, counting on, and firing, which steps an amplitude that is not 0 in the envelope's direction. -/
theorem envelopeUnitStepsTheAmplitude : Obligations.EnvelopeUnitStepsTheAmplitude := by
  intro s c h e a counted reloaded stepped
  refine ⟨State.envelopeUnit_of_off, State.envelopeUnit_of_counting, State.envelopeUnit_of_silent, ?increases,
    ?decreases⟩
  case increases =>
    intro hon hfire hloud hdir
    rw [h.envelopeUnit_of_loud hon hfire hloud, hdir, stepAmplitude_increase]
    rfl
  case decreases =>
    intro hon hfire hloud hdir
    rw [h.envelopeUnit_of_loud hon hfire hloud, hdir, stepAmplitude_decrease hloud]
    rfl

/-! ## The sweep unit (43 R198 to R200) -/

theorem sweptFrequency_eq (w : Sweep) :
    sweptFrequency w =
      if w.negate then w.shadowFrequency.toNat - w.shadowFrequency.toNat / 2 ^ w.shift.toNat
      else w.shadowFrequency.toNat + w.shadowFrequency.toNat / 2 ^ w.shift.toNat := by
  rw [sweptFrequency, Nat.shiftRight_eq_div_pow]

/-- The intermediate frequency fits 12 bits: at most twice the greatest 11-bit value. -/
theorem sweptFrequency_le (w : Sweep) : sweptFrequency w ≤ 4094 := by
  have hshadow : w.shadowFrequency.toNat < 2048 := w.shadowFrequency.isLt
  have hdelta := Nat.div_le_self w.shadowFrequency.toNat (2 ^ w.shift.toNat)
  rw [sweptFrequency_eq]
  generalize w.shadowFrequency.toNat / 2 ^ w.shift.toNat = delta at hdelta ⊢
  split <;> omega

/-- The state with the sweep's counter at n. -/
def State.setSweepCounter (s : State) (n : BitVec 3) : State := s.setSweep { s.sweep with counter := n }

section
variable {s : State}

theorem State.sweepUnit_of_still (h : ¬ s.sweep.armed) : s.sweepUnit = s := if_neg h

theorem State.sweepUnit_of_counting (harmed : s.sweep.armed) (hcount : 2 ≤ s.sweep.counter.toNat) :
    s.sweepUnit = s.setSweepCounter (BitVec.ofNat 3 (s.sweep.counter.toNat - 1)) := by
  refine (if_pos harmed).trans ?_
  rw [countDown_counts _ _ hcount]
  exact if_neg Bool.false_ne_true

/-- A firing unit reloads, and then overflows or commits by the frequency it computes. -/
theorem State.sweepUnit_of_firing (harmed : s.sweep.armed) (hfire : s.sweep.counter.toNat ≤ 1) :
    s.sweepUnit =
      if 2047 < sweptFrequency s.sweep then (s.setSweepCounter s.sweep.period).sweepOverflow
      else (s.setSweepCounter s.sweep.period).sweepCommit (BitVec.ofNat 11 (sweptFrequency s.sweep)) := by
  refine (if_pos harmed).trans ?_
  rw [countDown_fires _ _ hfire]
  exact if_pos rfl

theorem State.Inv.sweepOverflow_eq (h : s.Inv) (n : BitVec 3) :
    (s.setSweepCounter n).sweepOverflow =
      { s with sweep := { s.sweep with counter := n, enabled := false }, voices := s.gained .ch0 0 } := by
  rw [State.sweepOverflow, h.chanAmpWrite_eq (t := s.setSweepCounter n) rfl rfl]
  rfl

theorem State.sweepCommit_setSweepCounter (n : BitVec 3) (f : BitVec 11) :
    (s.setSweepCounter n).sweepCommit f =
      { s with
        sweep := { s.sweep with counter := n, shadowFrequency := f }, fnum0 := f,
        voices := Spec.mapVoice s 0 (fun o => { o with tune := tuneOf s.cfg f }) } := by
  rw [State.sweepCommit_eq, State.modifyVoice_eq]
  rfl

end

/-- Settles O23: still, counting on, and firing, which commits or overflows by the frequency's one bound. -/
theorem sweepUnitCommitsOrMutes : Obligations.SweepUnitCommitsOrMutes := by
  intro s h w delta new f
  have hnew : sweptFrequency s.sweep = new := sweptFrequency_eq w
  refine ⟨Nat.div_le_self _ _, hnew ▸ sweptFrequency_le w, ?still, ?counts, ?commits, ?overflows⟩
  case still =>
    rintro (hdisabled | hoff)
    · exact State.sweepUnit_of_still fun harmed => by simp [w, harmed.1] at hdisabled
    · exact State.sweepUnit_of_still fun harmed => harmed.2 hoff
  case counts =>
    intro henabled hon hcount
    exact State.sweepUnit_of_counting ⟨henabled, hon⟩ hcount
  case commits =>
    intro henabled hon hfire hfits
    rw [State.sweepUnit_of_firing ⟨henabled, hon⟩ hfire, hnew, if_neg (Nat.not_lt.mpr hfits)]
    exact State.sweepCommit_setSweepCounter _ f
  case overflows =>
    intro henabled hon hfire hover
    rw [State.sweepUnit_of_firing ⟨henabled, hon⟩ hfire, hnew, if_pos hover]
    exact h.sweepOverflow_eq _

end Sys2Proof.Machine
end

section
/-! PROOFS. FCLK and the frame step (43_frame_sequencer R190 to R192, R201): which units run on a step, and which events
write the step. -/

namespace Sys2Proof.Machine

/-! ## The units of a step (43 R192) -/

section
variable {s : State}

theorem State.runUnits_of_length (h : s.frameStep = 0 ∨ s.frameStep = 4) : s.runUnits = s.lengthUnits := by
  obtain h | h := h <;> simp [State.runUnits, lengthStep, sweepStep, envelopeStep, h]

theorem State.runUnits_of_sweep (h : s.frameStep = 2 ∨ s.frameStep = 6) : s.runUnits = s.lengthUnits.sweepUnit := by
  obtain h | h := h <;> simp [State.runUnits, lengthStep, sweepStep, envelopeStep, h]

theorem State.runUnits_of_envelope (h : s.frameStep = 7) : s.runUnits = s.envelopeUnits := by
  simp [State.runUnits, lengthStep, sweepStep, envelopeStep, h]

theorem State.runUnits_of_none (h : s.frameStep = 1 ∨ s.frameStep = 3 ∨ s.frameStep = 5) : s.runUnits = s := by
  obtain h | h | h := h <;> simp [State.runUnits, lengthStep, sweepStep, envelopeStep, h]

/-- The frame sequencer's next step, in the statements' words (43 R191). -/
theorem State.advanceStep_eq (s : State) :
    s.advanceStep = { s with frameStep := BitVec.ofNat 3 ((s.frameStep.toNat + 1) % 8) } := by
  have hnext : s.frameStep + 1 = BitVec.ofNat 3 ((s.frameStep.toNat + 1) % 8) := by
    apply BitVec.eq_of_toNat_eq
    simp [BitVec.toNat_add]
  rw [State.advanceStep, hnext]

theorem exec_fclk_of_present (hp : Spec.present s) :
    exec .fclk s = .next (s.advanceStep.runUnits.respond .nothing) :=
  if_pos hp

theorem exec_fclk_of_absent (habsent : s.cfg.registerInterpreter = .absent) :
    exec .fclk s = .refused .noInterpreter :=
  if_neg (by rw [habsent]; decide)

end

/-- Settles O20: the step advances first, and the new step is of exactly one of the four classes. -/
theorem fclkRunsTheUnitsOfItsStep : Obligations.FclkRunsTheUnitsOfItsStep := by
  intro s t lengths swept stepped n
  have hstep {k : Nat} (hk : n = k) : t.frameStep = BitVec.ofNat 3 k := congrArg (BitVec.ofNat 3) hk
  refine ⟨fun hp => ?_, exec_fclk_of_absent⟩
  have hrun {u : State} (hu : t.runUnits = u) : exec .fclk s = .next { u with response := .nothing } := by
    rw [exec_fclk_of_present hp, s.advanceStep_eq]
    exact congrArg (fun u : State => Host.Outcome.next (u.respond .nothing)) hu
  refine ⟨?length, ?sweep, ?envelope, ?none⟩
  case length => exact fun hn => hrun (State.runUnits_of_length (hn.imp hstep hstep))
  case sweep => exact fun hn => hrun (State.runUnits_of_sweep (hn.imp hstep hstep))
  case envelope => exact fun hn => hrun (State.runUnits_of_envelope (hstep hn))
  case none => exact fun hn => hrun (State.runUnits_of_none (hn.imp hstep (Or.imp hstep hstep)))

/-! ## What leaves the step as it is (43 R201) -/

section
variable (s : State)

@[simp] theorem State.lengthUnit_frameStep (c : Channel) : (s.lengthUnit c).frameStep = s.frameStep := by
  obtain ⟨vs, n0, n1, n2, hunit⟩ := s.lengthUnit_only c
  rw [hunit]

@[simp] theorem State.lengthUnit_cfg (c : Channel) : (s.lengthUnit c).cfg = s.cfg := by
  obtain ⟨vs, n0, n1, n2, hunit⟩ := s.lengthUnit_only c
  rw [hunit]

@[simp] theorem State.envelopeUnit_frameStep (c : SquareChannel) : (s.envelopeUnit c).frameStep = s.frameStep := by
  obtain ⟨vs, n0, n1, hunit⟩ := s.envelopeUnit_only c
  rw [hunit]

@[simp] theorem State.envelopeUnit_cfg (c : SquareChannel) : (s.envelopeUnit c).cfg = s.cfg := by
  obtain ⟨vs, n0, n1, hunit⟩ := s.envelopeUnit_only c
  rw [hunit]

@[simp] theorem State.sweepUnit_frameStep : s.sweepUnit.frameStep = s.frameStep := by
  obtain ⟨vs, f, n, sf, en, hunit⟩ := s.sweepUnit_only
  rw [hunit]

@[simp] theorem State.sweepUnit_cfg : s.sweepUnit.cfg = s.cfg := by
  obtain ⟨vs, f, n, sf, en, hunit⟩ := s.sweepUnit_only
  rw [hunit]

/-- The units write neither the step that selects them nor the configuration. -/
theorem State.runUnits_keeps : s.runUnits.frameStep = s.frameStep ∧ s.runUnits.cfg = s.cfg := by
  unfold State.runUnits State.lengthUnits State.envelopeUnits
  simp only []
  split_ifs <;> simp

@[simp] theorem State.writeFhi_frameStep (c : Channel) (d : Byte) : (s.writeFhi c d).frameStep = s.frameStep := by
  obtain ⟨vs, f0, f1, f2, l0, l1, l2, e0, e1, w, hwrite⟩ := s.writeFhi_only c d
  rw [hwrite]

end

section
variable {s t : State}

/-- A register write keeps the step where its change of the state does. -/
theorem frameStep_of_registerWrite {f : State → State} (h : registerWrite s f = .next t)
    (hf : (f s).frameStep = s.frameStep) : t.frameStep = s.frameStep := by
  obtain ⟨-, rfl⟩ := registerWrite_next.mp h
  exact hf

theorem frameStep_of_pokeVoice {v : BitVec 4} {f : State → State} (h : pokeVoice s v f = .next t)
    (hf : (f s).frameStep = s.frameStep) : t.frameStep = s.frameStep := by
  obtain ⟨-, rfl⟩ := pokeVoice_next.mp h
  exact hf

theorem frameStep_of_peekVoice {v : BitVec 4} {f : Voice → BitVec 16} (h : peekVoice s v f = .next t) :
    t.frameStep = s.frameStep := by
  obtain ⟨-, rfl⟩ := peekVoice_next.mp h
  rfl

theorem frameStep_of_whenAddress {a : Byte} {f : State → State} (h : whenAddress s a f = .next t)
    (hf : (f s).frameStep = s.frameStep) : t.frameStep = s.frameStep := by
  obtain ⟨-, rfl⟩ := whenAddress_next.mp h
  exact hf

theorem frameStep_of_tick (h : exec .tick s = .next t) : t.frameStep = s.frameStep := by
  obtain ⟨u, hu, -, hframe, -⟩ := tickReturnsOutputsAndKeepsTheRest s
  obtain rfl : u = t := Host.Outcome.next.inj (hu.symm.trans h)
  rw [hframe]

theorem frameStep_of_begin (h : exec .beginEvent s = .next t) : t.frameStep = 0 := by
  simp only [exec] at h
  obtain ⟨-, rfl⟩ := whenInterpreter_next.mp h
  rfl

/-- Only FCLK, INIT and BEGIN write the step: event by event, by the guard that performs it. -/
theorem frameStep_of_exec {i : Instr} (h : exec i s = .next t)
    (hclock : i ≠ .fclk) (hinit : i ≠ .initEvent) (hbegin : i ≠ .beginEvent) : t.frameStep = s.frameStep := by
  cases i
  case fclk => contradiction
  case initEvent => contradiction
  case beginEvent => contradiction
  case tick => exact frameStep_of_tick h
  case vpokeBadfield v field x => simp [exec_vpokeBadfield] at h
  case vpeekBadfield v field => simp [exec_vpeekBadfield] at h
  all_goals simp only [exec] at h
  case regwFhi0 | regwFhi1 | regwFhi2 => exact frameStep_of_registerWrite h (s.writeFhi_frameStep _ _)
  case regwSweep0 | regwLenduty0 | regwEnv0 | regwFlo0 | regwLenduty1 | regwEnv1 | regwFlo1 | regwLen2 | regwLvl2
      | regwFlo2 | regwPat | regwIgnored => exact frameStep_of_registerWrite h rfl
  case vpokePhase | vpokeTune | vpokeSel | vpokeMask | vpokeAmpl | vpokeAmpr => exact frameStep_of_pokeVoice h rfl
  case vpeekPhase | vpeekTune | vpeekSel | vpeekMask | vpeekAmpl | vpeekAmpr => exact frameStep_of_peekVoice h
  case wtwrite | wtread => exact frameStep_of_whenAddress h rfl
  case oread | mread =>
    obtain rfl := Host.Outcome.next.inj h
    rfl
  case reservedB | reservedC | reservedD | reservedE | reservedF => contradiction

/-! ## The cycle of the step (43 R201) -/

/-- With the interpreter FCLK completes, keeps the interpreter and adds one to the step modulo 8. -/
theorem exec_fclk_advances (hp : Spec.present s) :
    ∃ u, exec .fclk s = .next u ∧ Spec.present u ∧ u.frameStep.toNat = (s.frameStep.toNat + 1) % 8 := by
  obtain ⟨hstep, hcfg⟩ := s.advanceStep.runUnits_keeps
  refine ⟨_, exec_fclk_of_present hp, ?_, ?_⟩
  · rw [Spec.present, State.respond_cfg, hcfg]
    exact hp
  · rw [State.respond_frameStep, hstep, State.advanceStep_frameStep, BitVec.toNat_add]
    rfl

theorem perform_replicate_fclk (n : Nat) (hp : Spec.present s) :
    ∃ u, perform (List.replicate n .fclk) s = .next u ∧ u.frameStep.toNat = (s.frameStep.toNat + n) % 8 := by
  induction n generalizing s with
  | zero => exact ⟨s, rfl, (Nat.mod_eq_of_lt s.frameStep.isLt).symm⟩
  | succ n ih =>
    obtain ⟨u, hu, hpu, hstep⟩ := exec_fclk_advances hp
    obtain ⟨v, hv, hcycle⟩ := ih hpu
    refine ⟨v, ?_, ?_⟩
    · rw [List.replicate_succ, perform, hu]
      exact hv
    · rw [hcycle, hstep]
      omega

end

/-- Settles O26: the cycle by induction on the number of FCLKs, and the writers of the step event by event. -/
theorem frameStepCyclesForEver : Obligations.FrameStepCyclesForEver := by
  refine ⟨fun n s hp => perform_replicate_fclk n hp, fun i s t h => ?writers⟩
  case writers =>
    split_ifs with hreset hclock
    · obtain rfl | rfl := hreset
      · obtain rfl := Host.Outcome.next.inj h
        rfl
      · exact frameStep_of_begin h
    · obtain ⟨hinit, hbegin⟩ := not_or.mp hreset
      exact frameStep_of_exec h hclock hinit hbegin

end Sys2Proof.Machine
end

section
/-! PROOFS. The host ports (44_host_ports R220 to R231): a poke as one change of one voice, a peek as a read of it, and the
wavetable, output and mixer ports. -/

namespace Sys2Proof.Machine

/-! ## VPOKE and VPEEK (44 R220 to R227) -/

section
variable {s : State} {v : BitVec 4}

/-- A VPOKE of a voice that exists, in the statements' words. -/
theorem pokeVoice_of_exists (hv : v.toNat < s.cfg.voiceCount) (f : Voice → Voice) :
    pokeVoice s v (fun t => t.modifyVoice v.toNat f) =
      .next { s with voices := Spec.mapVoice s v.toNat f, response := .nothing } :=
  pokeVoice_next.mpr ⟨hv, congrArg (·.respond .nothing) (s.modifyVoice_eq v.toNat f)⟩

/-- A VPEEK of a voice that exists returns the field of the voice at that place of the voice file. -/
theorem peekVoice_of_getElem? {o : Voice} (hv : v.toNat < s.cfg.voiceCount) (ho : s.voices[v.toNat]? = some o)
    (field : Voice → BitVec 16) : peekVoice s v field = .next { s with response := .field (field o) } :=
  peekVoice_next.mpr ⟨hv, by rw [State.voice_of_getElem? ho]; rfl⟩

theorem pokeVoice_of_missing (hv : s.cfg.voiceCount ≤ v.toNat) (write : State → State) :
    pokeVoice s v write = .refused .noSuchVoice :=
  if_neg (Nat.not_lt.mpr hv)

theorem peekVoice_of_missing (hv : s.cfg.voiceCount ≤ v.toNat) (field : Voice → BitVec 16) :
    peekVoice s v field = .refused .noSuchVoice :=
  if_neg (Nat.not_lt.mpr hv)

/-- The answer on a reserved field code, by the test that fails rather than the one that passes. -/
theorem badFieldRefusal_eq (s : State) (v : BitVec 4) :
    badFieldRefusal s v = if s.cfg.voiceCount ≤ v.toNat then .noSuchVoice else .noSuchField := by
  simp only [badFieldRefusal, ← Nat.not_lt, ite_not]

end

/-! ## The gains (10_state R23) -/

/-- A gain stored as the stereo mode says takes a left amplitude as the mode says (44 R224). -/
theorem Gain.setLeft_of_fits {g : Gain} {mode : StereoMode} (h : g.fits mode) (x : Byte) :
    g.setLeft x = if mode = .independent then .separate x g.right else .shared x := by
  cases g with
  | separate l r => exact (if_pos h).symm
  | shared a => exact (if_neg h).symm

/-- A gain stored as the stereo mode says takes a right amplitude as the mode says (44 R225). -/
theorem Gain.setRight_of_fits {g : Gain} {mode : StereoMode} (h : g.fits mode) (x : Byte) :
    g.setRight x = if mode = .independent then .separate g.left x else .shared x := by
  cases g with
  | separate l r => exact (if_pos h).symm
  | shared a => exact (if_neg h).symm

/-- Two changes of a voice's gain that agree on the gains stored as the stereo mode says are the same change in a
constructed state. -/
theorem State.Inv.modifyGain_congr {s : State} (h : s.Inv) (v : Nat) {f g : Gain → Gain}
    (hfg : ∀ k : Gain, k.fits s.cfg.stereoMode → f k = g k) :
    s.modifyVoice v (fun o => { o with gain := f o.gain }) = s.modifyVoice v (fun o => { o with gain := g o.gain }) :=
  s.modifyVoice_congr v fun hl => by rw [hfg _ (h.gains _ (State.voice_mem hl))]

/-- A VPOKE of a gain, by what it does to the gains stored as the stereo mode says. -/
theorem State.Inv.pokeGain_of_exists {s : State} (h : s.Inv) {v : BitVec 4} (hv : v.toNat < s.cfg.voiceCount)
    {f g : Gain → Gain} (hfg : ∀ k : Gain, k.fits s.cfg.stereoMode → f k = g k) :
    pokeVoice s v (fun t => t.modifyVoice v.toNat (fun o => { o with gain := f o.gain })) =
      .next { s with
        voices := Spec.mapVoice s v.toNat (fun o => { o with gain := g o.gain }), response := .nothing } :=
  pokeVoice_next.mpr ⟨hv, congrArg (·.respond .nothing)
    ((h.modifyGain_congr v.toNat hfg).trans (s.modifyVoice_eq v.toNat _))⟩

/-! ## The wavetable ports (44 R228, R229) -/

theorem whenAddress_of_missing {s : State} {a : Byte} (ha : s.cfg.wavetableSize ≤ a.toNat) (perform : State → State) :
    whenAddress s a perform = .refused .noSuchAddress :=
  if_neg (Nat.not_lt.mpr ha)

/-! ## The statements -/

/-- Settles O39: each of the four is one change of one voice. -/
theorem vpokeWritesOneField : Obligations.VpokeWritesOneField :=
  fun _ _ _ _ hv =>
    ⟨pokeVoice_of_exists hv _, pokeVoice_of_exists hv _, pokeVoice_of_exists hv _, pokeVoice_of_exists hv _⟩

/-- Settles O40: a constructed state stores its gains as the stereo mode says, and there each of the two changes the gain
as the mode says. -/
theorem vpokeWritesGains : Obligations.VpokeWritesGains :=
  fun _ _ x h hv =>
    ⟨h.pokeGain_of_exists hv fun _ hk => Gain.setLeft_of_fits hk x,
      h.pokeGain_of_exists hv fun _ hk => Gain.setRight_of_fits hk x⟩

/-- Settles O41: one rule for the six fields; of a byte, the zero extension is the same number at 16 bits. -/
theorem vpeekReturnsTheField : Obligations.VpeekReturnsTheField := by
  intro s v o hv ho
  have hpeek := peekVoice_of_getElem? hv ho
  simp only [exec, BitVec.ofNat_toNat]
  exact ⟨hpeek _, hpeek _, hpeek _, hpeek _, hpeek _, hpeek _⟩

/-- Settles O42: the voice is tested first in every event of the two ports, and the reserved field codes pass no other
test. -/
theorem badFieldsAndVoicesAreRefused : Obligations.BadFieldsAndVoicesAreRefused := by
  intro s v f x b r
  have hr : badFieldRefusal s v = r := badFieldRefusal_eq s v
  refine ⟨hr ▸ exec_vpokeBadfield v f x s, hr ▸ exec_vpeekBadfield v f s, fun hv => ?missing⟩
  case missing =>
    have poke := pokeVoice_of_missing hv
    have peek := peekVoice_of_missing hv
    simp only [List.forall_mem_cons, exec]
    exact ⟨poke _, poke _, poke _, poke _, poke _, poke _, peek _, peek _, peek _, peek _, peek _, peek _,
      List.forall_mem_nil _⟩

/-- Settles O44: a byte write changes the wavetable alone, as its law says; past the table both ports refuse. -/
theorem wavetablePorts : Obligations.WavetablePorts := by
  intro s a x
  simp only [exec]
  refine ⟨fun ha => ⟨?write, ?read⟩, fun ha => ?missing⟩
  case write => exact ⟨_, whenAddress_next.mpr ⟨ha, rfl⟩, fun b => s.readByte_writeByte a.toNat b x, rfl⟩
  case read => exact whenAddress_next.mpr ⟨ha, rfl⟩
  case missing => exact ⟨whenAddress_of_missing ha _, whenAddress_of_missing ha _⟩

/-- Settles O45: both ports answer the state with a response, and OREAD's is `Outputs()` in the statements' words. -/
theorem outputAndMixerPorts : Obligations.OutputAndMixerPorts :=
  fun s => ⟨congrArg (fun r => Host.Outcome.next (s.respond r)) s.outputs_eq, rfl⟩

end Sys2Proof.Machine
end

section
/-! PROOFS. BEGIN (44_host_ports R233, R234): the state it produces as one record over the state before it, and that a
second BEGIN finds all of it in place. -/

namespace Sys2Proof.Machine

/-! ## The wavetable (44 R234) -/

/-- The duty patterns are those of the rule's table. -/
theorem dutyPattern_toNat : ∀ i : BitVec 2, (dutyPattern i).toNat = Spec.dutyBits.getD i.toNat 0 := by decide

theorem dutySample_eq_dutyByte (i : BitVec 2) (j : Nat) : dutySample i j = Spec.dutyByte i.toNat j := by
  rw [dutySample, Spec.dutyByte, ← dutyPattern_toNat, BitVec.testBit_toNat]

theorem State.beginWavetable_begunByte (s : State) (a : Nat) : s.beginWavetable.readByte a = Spec.begunByte s a := by
  have slot (ha : 0x80 ≤ a ∧ a < 0x100) : (BitVec.ofNat 2 ((a - 0x80) / 32)).toNat = (a - 0x80) / 32 :=
    Nat.mod_eq_of_lt (by omega)
  rw [s.beginWavetable_readByte, Spec.begunByte]
  split_ifs with _ hduty
  · rfl
  · rw [dutySample_eq_dutyByte, slot hduty]
  · rfl

/-- BEGIN writes the bytes that it writes whatever they were before. -/
theorem begunByte_of_begun {s t : State} (ht : ∀ a, t.readByte a = Spec.begunByte s a) (a : Nat) :
    Spec.begunByte t a = t.readByte a := by
  rw [Spec.begunByte, ht, Spec.begunByte]
  split_ifs <;> rfl

/-! ## The voices (44 R233) -/

/-- The state with voices 0, 1 and 2 set up. -/
def State.beginVoices (s : State) : State := ((s.beginVoice .ch0).beginVoice .ch1).beginVoice .ch2

theorem inv_beginVoices {s : State} (h : s.Inv) : s.beginVoices.Inv :=
  inv_beginVoice (inv_beginVoice (inv_beginVoice h .ch0) .ch1) .ch2

/-- BEGIN's set-up of one channel's voice, in the statements' words. -/
theorem State.Inv.beginVoice_eq {s : State} (h : s.Inv) (c : Channel) :
    s.beginVoice c =
      { s with voices := Spec.mapVoice s c.voice (Spec.begunVoice s.cfg.stereoMode c.voice) } := by
  rw [State.beginVoice_eq h.gains, State.modifyVoice_eq]
  cases c <;> rfl

/-- The three set-ups are one pass over the voice file. -/
theorem State.Inv.beginVoices_eq {s : State} (h : s.Inv) :
    s.beginVoices = { s with voices := s.voices.mapIdx (Spec.begunVoice s.cfg.stereoMode) } := by
  have h0 := inv_beginVoice h .ch0
  rw [State.beginVoices, (inv_beginVoice h0 .ch1).beginVoice_eq, h0.beginVoice_eq, h.beginVoice_eq]
  simp only [Spec.mapVoice, List.mapIdx_mapIdx]
  refine congrArg (fun pass => { s with voices := s.voices.mapIdx pass }) (funext₂ fun v o => ?pass)
  case pass =>
    rcases v with _ | _ | _ | v
    · rfl
    · rfl
    · rfl
    · simp [Channel.voice, Spec.begunVoice]

/-- The set-up of a voice does not look at what it sets. -/
theorem begunVoice_begunVoice (mode : StereoMode) (v : Nat) (o : Voice) :
    Spec.begunVoice mode v (Spec.begunVoice mode v o) = Spec.begunVoice mode v o := by
  unfold Spec.begunVoice
  split_ifs <;> rfl

/-! ## The whole event -/

/-- The state that BEGIN leaves with wavetable `m` (44 R233). -/
def State.begun (s : State) (m : Memory) : State :=
  { s with
    voices := s.voices.mapIdx (Spec.begunVoice s.cfg.stereoMode), wavetable := m,
    fnum0 := 0, fnum1 := 0, fnum2 := 0, env0 := ⟨0, 0, .decrease, 0⟩, env1 := ⟨0, 0, .decrease, 0⟩, waveLevel := 0,
    len0 := ⟨false, 0, 0⟩, len1 := ⟨false, 0, 0⟩, len2 := ⟨false, 0, 0⟩, sweep := ⟨0, false, 0, 0, false, 0⟩,
    frameStep := 0, response := .nothing }

theorem State.begun_begun (s : State) (m n : Memory) : (s.begun m).begun n = s.begun n := by
  simp only [State.begun, List.mapIdx_mapIdx, Function.comp_def, begunVoice_begunVoice]

section
variable {s : State}

/-- The steps of BEGIN, collected into one record. -/
theorem State.Inv.begin_eq (h : s.Inv) (hp : Spec.present s) :
    s.beginWavetable.beginVoices.beginRegisters.respond .nothing = s.begun s.beginWavetable.wavetable := by
  obtain ⟨m, hm⟩ := s.beginWavetable_only
  rw [(inv_beginWavetable h (h.present_fits hp).1).beginVoices_eq, hm]
  rfl

/-- With the interpreter BEGIN completes in a constructed state, whose wavetable is known by its bytes. -/
theorem exec_beginEvent_of_present (h : s.Inv) (hp : Spec.present s) :
    ∃ m, exec .beginEvent s = .next (s.begun m) ∧ (s.begun m).Inv
      ∧ ∀ a, (s.begun m).readByte a = Spec.begunByte s a := by
  have hwave : s.beginWavetable.Inv := inv_beginWavetable h (h.present_fits hp).1
  refine ⟨s.beginWavetable.wavetable, ?exec, ?inv, fun a => ?reads⟩
  case exec =>
    simp only [exec]
    exact whenInterpreter_next.mpr ⟨hp, h.begin_eq hp⟩
  case inv => exact h.begin_eq hp ▸ inv_respond (inv_beginRegisters (inv_beginVoices hwave)) .nothing
  case reads =>
    rw [← s.beginWavetable_begunByte]
    obtain ⟨m, hm⟩ := s.beginWavetable_only
    rw [hm]
    rfl

theorem exec_beginEvent_of_absent (habsent : s.cfg.registerInterpreter = .absent) :
    exec .beginEvent s = .refused .noInterpreter :=
  if_neg (by rw [habsent]; decide)

/-- A second BEGIN finds every byte already written, so it leaves the same canonical memory, and the rest is as the first
left it. -/
theorem exec_beginEvent_of_begun {m : Memory} (hp : Spec.present s) (hinv : (s.begun m).Inv)
    (hreads : ∀ a, (s.begun m).readByte a = Spec.begunByte s a) :
    exec .beginEvent (s.begun m) = .next (s.begun m) := by
  obtain ⟨n, hexec, hinvAgain, hreadsAgain⟩ := exec_beginEvent_of_present hinv hp
  rw [State.begun_begun] at hexec hinvAgain hreadsAgain
  have hsame : n = m := memory_ext hinvAgain.wavetable hinv.wavetable fun a =>
    (hreadsAgain a).trans (begunByte_of_begun hreads a)
  rw [hsame] at hexec
  exact hexec

end

/-- Settles O48: BEGIN as one record whose wavetable is known by its bytes, and a second BEGIN by that record's own
lemma. -/
theorem beginStartsTheRegisterInterface : Obligations.BeginStartsTheRegisterInterface := by
  intro s h
  refine ⟨fun hp => ?present, exec_beginEvent_of_absent⟩
  case present =>
    obtain ⟨m, hexec, hinv, hreads⟩ := exec_beginEvent_of_present h hp
    exact ⟨s.begun m, hexec, hreads, rfl, exec_beginEvent_of_begun hp hinv hreads⟩

end Sys2Proof.Machine
end

section
/-! PROOFS. The table of refusals (60_exceptions R253, R257): what it says of each kind of word, and that each guarded
operation of the machine answers as its row says. -/

namespace Sys2Proof.Machine

/-- An outcome answers a verdict of the table: refused for the reason it gives, completed where it gives none. -/
def Answers (verdict : Option Refusal) (outcome : Result) : Prop :=
  match verdict with
  | some r => outcome = .refused r
  | none => ∃ t, outcome = .next t

/-! ## The table by kind of word -/

/-- The last row of the table: REGW, FCLK and BEGIN. -/
def interpreterRefusal (cfg : Config) : Option Refusal :=
  if cfg.registerInterpreter = .absent then some .noInterpreter else none

/-- The two rows of VPOKE and VPEEK, the voice first (R257). -/
def voiceRefusal (cfg : Config) (v : BitVec 4) (field : BitVec 3) : Option Refusal :=
  if cfg.voiceCount ≤ v.toNat then some .noSuchVoice else if 6 ≤ field.toNat then some .noSuchField else none

/-- The row of WTWRITE and WTREAD. -/
def addressRefusal (cfg : Config) (a : Byte) : Option Refusal :=
  if cfg.wavetableSize ≤ a.toNat then some .noSuchAddress else none

section
variable (cfg : Config) {w : EventWord}

theorem refusalOf_of_reservedKind (hkind : 0xB ≤ (w.extractLsb' 28 4).toNat) : refusalOf cfg w = some .reservedKind :=
  if_pos hkind

theorem refusalOf_of_voiceKind (hkind : (w.extractLsb' 28 4).toNat = 0x3 ∨ (w.extractLsb' 28 4).toNat = 0x4) :
    refusalOf cfg w = voiceRefusal cfg (w.extractLsb' 24 4) (w.extractLsb' 20 3) := by
  obtain hkind | hkind := hkind <;> simp [refusalOf, voiceRefusal, hkind]

theorem refusalOf_of_wavetableKind (hkind : (w.extractLsb' 28 4).toNat = 0x5 ∨ (w.extractLsb' 28 4).toNat = 0x6) :
    refusalOf cfg w = addressRefusal cfg (w.extractLsb' 16 8) := by
  obtain hkind | hkind := hkind <;> simp [refusalOf, addressRefusal, hkind]

theorem refusalOf_of_interpreterKind (hkind : (w.extractLsb' 28 4).toNat = 0x0 ∨ (w.extractLsb' 28 4).toNat = 0x2
      ∨ (w.extractLsb' 28 4).toNat = 0xA) : refusalOf cfg w = interpreterRefusal cfg := by
  obtain hkind | hkind | hkind := hkind <;> simp [refusalOf, interpreterRefusal, hkind]

/-- No row of the table is about TICK, OREAD, MREAD or INIT. -/
theorem refusalOf_of_unconditionalKind (hkind : (w.extractLsb' 28 4).toNat = 0x1 ∨ (w.extractLsb' 28 4).toNat = 0x7
      ∨ (w.extractLsb' 28 4).toNat = 0x8 ∨ (w.extractLsb' 28 4).toNat = 0x9) : refusalOf cfg w = none := by
  obtain hkind | hkind | hkind | hkind := hkind <;> simp [refusalOf, hkind]

end

/-! ## The guards answer their rows -/

section
variable (s : State)

theorem answers_whenInterpreter (f : State → State) : Answers (interpreterRefusal s.cfg) (whenInterpreter s f) := by
  unfold interpreterRefusal
  cases hpresence : s.cfg.registerInterpreter with
  | absent => exact if_neg (by rw [hpresence]; decide)
  | present => exact ⟨_, whenInterpreter_next.mpr ⟨hpresence, rfl⟩⟩

theorem answers_whenAddress (a : Byte) (f : State → State) : Answers (addressRefusal s.cfg a) (whenAddress s a f) := by
  unfold addressRefusal
  split
  case isTrue hmissing => exact whenAddress_of_missing hmissing f
  case isFalse hexists => exact ⟨_, whenAddress_next.mpr ⟨Nat.lt_of_not_le hexists, rfl⟩⟩

/-- On a field code that is not reserved, the row is the voice's alone. -/
theorem answers_whenVoice (v : BitVec 4) {field : BitVec 3} (hfield : field.toNat < 6) (f : State → State) :
    Answers (voiceRefusal s.cfg v field) (whenVoice s v f) := by
  rw [voiceRefusal, if_neg (Nat.not_le.mpr hfield)]
  split
  case isTrue hmissing => exact if_neg (Nat.not_lt.mpr hmissing)
  case isFalse hexists => exact ⟨_, whenVoice_next.mpr ⟨Nat.lt_of_not_le hexists, rfl⟩⟩

/-- On a reserved field code the field's row always holds, and the voice's, where it holds too, comes first (R257). -/
theorem answers_badFieldRefusal (v : BitVec 4) {field : BitVec 3} (hfield : 6 ≤ field.toNat) :
    Answers (voiceRefusal s.cfg v field) (.refused (badFieldRefusal s v)) := by
  rw [voiceRefusal, if_pos hfield, badFieldRefusal_eq]
  split <;> rfl

/-! ## The events answer their rows -/

theorem answers_registerWrite (write : State → State) : Answers (interpreterRefusal s.cfg) (registerWrite s write) :=
  answers_whenInterpreter s _

/-- Whatever its address, a REGW is an event of the interpreter (42 R150). -/
theorem answers_decodeRegw (reg d : Byte) : Answers (interpreterRefusal s.cfg) (exec (decodeRegw reg d) s) := by
  unfold decodeRegw
  split
  case' h_14 => split
  all_goals
    simp only [exec]
    exact answers_registerWrite s _

theorem answers_decodeVpoke (v : BitVec 4) (field : BitVec 3) (value : BitVec 16) :
    Answers (voiceRefusal s.cfg v field) (exec (decodeVpoke v field value) s) := by
  have poke (hfield : field.toNat < 6) (write : State → State) :
      Answers (voiceRefusal s.cfg v field) (pokeVoice s v write) := answers_whenVoice s v hfield _
  unfold decodeVpoke
  split
  case h_7 => exact exec_vpokeBadfield v field value s ▸ answers_badFieldRefusal s v (field := field) (by grind)
  all_goals
    simp only [exec]
    exact poke (by omega) _

theorem answers_decodeVpeek (v : BitVec 4) (field : BitVec 3) :
    Answers (voiceRefusal s.cfg v field) (exec (decodeVpeek v field) s) := by
  have peek (hfield : field.toNat < 6) (read : Voice → BitVec 16) :
      Answers (voiceRefusal s.cfg v field) (peekVoice s v read) := answers_whenVoice s v hfield _
  unfold decodeVpeek
  split
  case h_7 => exact exec_vpeekBadfield v field s ▸ answers_badFieldRefusal s v (field := field) (by grind)
  all_goals
    simp only [exec]
    exact peek (by omega) _

/-- TICK completes in every state (40_synthesis R122). -/
theorem exec_tick_completes : ∃ t, exec .tick s = .next t := by
  obtain ⟨t, ht, -⟩ := tickReturnsOutputsAndKeepsTheRest s
  exact ⟨t, ht⟩

theorem answers_fclk : Answers (interpreterRefusal s.cfg) (exec .fclk s) := by
  simp only [exec]
  exact answers_whenInterpreter s _

theorem answers_beginEvent : Answers (interpreterRefusal s.cfg) (exec .beginEvent s) := by
  simp only [exec]
  exact answers_whenInterpreter s _

theorem answers_wtwrite (a x : Byte) : Answers (addressRefusal s.cfg a) (exec (.wtwrite a x) s) := by
  simp only [exec]
  exact answers_whenAddress s a _

theorem answers_wtread (a : Byte) : Answers (addressRefusal s.cfg a) (exec (.wtread a) s) := by
  simp only [exec]
  exact answers_whenAddress s a _

end

/-- Settles O10: kind by kind, the row of the table that is about the word is the one that the guard of its event
answers. -/
theorem refusalsAreThoseOfTheTable : Obligations.RefusalsAreThoseOfTheTable := by
  intro s w
  change Answers (refusalOf s.cfg w) (exec (decode w) s)
  unfold decode
  split
  case h_1 regw => exact refusalOf_of_interpreterKind s.cfg (.inl regw) ▸ answers_decodeRegw s _ _
  case h_2 tick => exact refusalOf_of_unconditionalKind s.cfg (.inl tick) ▸ exec_tick_completes s
  case h_3 fclk => exact refusalOf_of_interpreterKind s.cfg (.inr (.inl fclk)) ▸ answers_fclk s
  case h_4 vpoke => exact refusalOf_of_voiceKind s.cfg (.inl vpoke) ▸ answers_decodeVpoke s _ _ _
  case h_5 vpeek => exact refusalOf_of_voiceKind s.cfg (.inr vpeek) ▸ answers_decodeVpeek s _ _
  case h_6 wtwrite => exact refusalOf_of_wavetableKind s.cfg (.inl wtwrite) ▸ answers_wtwrite s _ _
  case h_7 wtread => exact refusalOf_of_wavetableKind s.cfg (.inr wtread) ▸ answers_wtread s _
  case h_8 oread => exact refusalOf_of_unconditionalKind s.cfg (.inr (.inl oread)) ▸ ⟨_, rfl⟩
  case h_9 mread => exact refusalOf_of_unconditionalKind s.cfg (.inr (.inr (.inl mread))) ▸ ⟨_, rfl⟩
  case h_10 init => exact refusalOf_of_unconditionalKind s.cfg (.inr (.inr (.inr init))) ▸ ⟨_, rfl⟩
  case h_11 begin => exact refusalOf_of_interpreterKind s.cfg (.inr (.inr begin)) ▸ answers_beginEvent s
  case h_12 | h_13 | h_14 | h_15 | h_16 =>
    exact refusalOf_of_reservedKind s.cfg (w := w) (by grind) ▸ rfl

end Sys2Proof.Machine
end

section
/-! PROOFS. The default sine (70_reset R274): the quarter read upwards, then downwards, and the second half as the
negation of the first. -/

namespace Sys2Proof.Machine

/-! ## The first half -/

section
variable {cfg : Config} {i : Nat}

theorem sineFirstHalf_rising (hlength : cfg.quarterSine.length = 16) (hi : i < 16) :
    some (sineFirstHalf cfg i) = cfg.quarterSine[i]? := by
  have hindex : i < cfg.quarterSine.length := by omega
  rw [sineFirstHalf, if_pos hi, List.getD_eq_getElem _ _ hindex, List.getElem?_eq_getElem hindex]

/-- From sample 16 on, the mirror's index is one of the quarter's own. -/
theorem sineFirstHalf_falling (hlength : cfg.quarterSine.length = 16) (hi : 16 ≤ i) :
    some (sineFirstHalf cfg i) = cfg.quarterSine[31 - i]? := by
  have hindex : 31 - i < cfg.quarterSine.length := by omega
  rw [sineFirstHalf, if_neg (Nat.not_lt.mpr hi), List.getD_eq_getElem _ _ hindex, List.getElem?_eq_getElem hindex]

theorem sineFirstHalf_mem (hlength : cfg.quarterSine.length = 16) (i : Nat) :
    sineFirstHalf cfg i ∈ cfg.quarterSine := by
  obtain hi | hi := Nat.lt_or_ge i 16
  · exact List.mem_of_getElem? (sineFirstHalf_rising hlength hi).symm
  · exact List.mem_of_getElem? (sineFirstHalf_falling hlength hi).symm

/-- A sample of the first half is an entry of the quarter, none of which is 0 (00_scope R8). -/
theorem one_le_sineFirstHalf (hlegal : cfg.legal) (i : Nat) : 1 ≤ (sineFirstHalf cfg i).toNat := by
  obtain ⟨-, -, -, ⟨hlength, hnonzero⟩, -⟩ := hlegal
  have hsample : sineFirstHalf cfg i ≠ 0 := hnonzero _ (sineFirstHalf_mem hlength i)
  exact Nat.pos_of_ne_zero fun hzero => hsample (BitVec.eq_of_toNat_eq hzero)

end

/-! ## The wavetable after INIT -/

section
variable (s : State) {i : Nat}

theorem State.afterInit_readByte_firstHalf (hi : i < 32) : s.afterInit.readByte i = sineFirstHalf s.cfg i :=
  (memRead_nil s.cfg i).trans (if_pos hi)

theorem State.afterInit_readByte_secondHalf (hi : i < 32) :
    s.afterInit.readByte (i + 32) = BitVec.ofNat 8 (256 - (s.afterInit.readByte i).toNat) := by
  have hsecond : resetByte s.cfg (i + 32) = BitVec.ofNat 8 (256 - (sineFirstHalf s.cfg i).toNat) := by
    rw [resetByte, if_neg (by omega), if_pos (by omega), Nat.add_sub_cancel]
  rw [State.afterInit_readByte_firstHalf s hi]
  exact (memRead_nil s.cfg (i + 32)).trans hsecond

end

/-- Settles O47: each half by its lemma; a sample is at least 1 since it is one of the quarter's. -/
theorem initFillsTheDefaultSine : Obligations.InitFillsTheDefaultSine := by
  intro s hlegal
  have ⟨_, _, _, ⟨hlength, _⟩, _⟩ := hlegal
  refine ⟨s.afterInit, exec_initEvent s, fun i hi => ?rising, fun i hlow hi => ?falling,
    fun i hi => ⟨?negated, ?positive⟩⟩
  case rising =>
    rw [s.afterInit_readByte_firstHalf (by omega)]
    exact sineFirstHalf_rising hlength hi
  case falling =>
    rw [s.afterInit_readByte_firstHalf hi]
    exact sineFirstHalf_falling hlength hlow
  case negated => rw [s.afterInit_readByte_secondHalf hi, BitVec.toNat_ofNat]
  case positive =>
    rw [s.afterInit_readByte_firstHalf hi]
    exact one_le_sineFirstHalf hlegal i

end Sys2Proof.Machine
end

section
/-! PROOFS. The units of the frame sequencer and the trigger as single changes (42 R158, 43 R195 to R200), in every state:
each writes its own registers and edits one voice, and what it writes depends on its own registers, the configuration and
that voice alone. -/

namespace Sys2Proof.Machine

/-! ## The amplitude of a channel (42 R152) -/

/-- A voice with both amplitudes written as `ChanAmpWrite` writes them, whatever the form its gain is stored in. -/
def Voice.withAmplitude (mode : StereoMode) (x : Byte) (o : Voice) : Voice :=
  { o with gain := if mode = .independent then (o.gain.setLeft x).setRight x else o.gain.setLeft x }

theorem State.chanAmpWrite_eq_modifyVoice (s : State) (c : Channel) (x : Byte) :
    s.chanAmpWrite c x = s.modifyVoice c.voice (Voice.withAmplitude s.cfg.stereoMode x) := by
  unfold State.chanAmpWrite Voice.withAmplitude
  split_ifs
  · exact s.modifyVoice_modifyVoice c.voice _ _
  · rfl

@[simp] theorem State.modifyVoice_id (s : State) (v : Nat) : s.modifyVoice v id = s :=
  congrArg (fun vs => { s with voices := vs }) (List.modify_id v s.voices)

/-! ## The trigger (42 R158) -/

/-- What a trigger makes of its channel's voice. -/
def Voice.triggered (mode : StereoMode) (tune : BitVec 16) (volume : Byte) (o : Voice) : Voice :=
  { o.withAmplitude mode volume with phase := 0, tune := tune }

theorem State.trigger_eq_modifyVoice (s : State) (c : Channel) :
    s.trigger c =
      (s.modifyVoice c.voice
        (Voice.triggered s.cfg.stereoMode (tuneOf s.cfg (s.fnum c)) (s.startingVolume c))).triggerReloads c := by
  rw [State.trigger, State.chanAmpWrite_eq_modifyVoice, State.setPhase, State.setTune, State.modifyVoice_modifyVoice,
    State.modifyVoice_modifyVoice]
  cases c <;> rfl

/-! ## The length unit (43 R195) -/

/-- The length counter after its unit has run. -/
def LengthCounter.counted (l : LengthCounter) : LengthCounter :=
  if l.counting then { l with counter := l.counter - 1 } else l

/-- What the length unit makes of its channel's voice: silence, on the step from 1 to 0. -/
def LengthCounter.edit (mode : StereoMode) (l : LengthCounter) : Voice → Voice :=
  if l.counting then if l.counter - 1 = 0 then Voice.withAmplitude mode 0 else id else id

theorem State.setLen_len (s : State) (c : Channel) : s.setLen c (s.len c) = s := by
  cases c <;> rfl

theorem State.lengthUnit_eq (s : State) (c : Channel) :
    s.lengthUnit c =
      (s.setLen c (s.len c).counted).modifyVoice c.voice ((s.len c).edit s.cfg.stereoMode) := by
  rw [LengthCounter.counted, LengthCounter.edit]
  by_cases hcounting : (s.len c).counting
  case neg =>
    rw [State.lengthUnit_of_idle hcounting, if_neg hcounting, if_neg hcounting, State.setLen_len, State.modifyVoice_id]
  case pos =>
    rw [if_pos hcounting, if_pos hcounting]
    refine (if_pos hcounting).trans ?_
    split_ifs with hlast
    · rw [State.chanAmpWrite_eq_modifyVoice, State.setLen_cfg]
    · rw [State.modifyVoice_id]

/-! ## The envelope unit (43 R196, R197) -/

/-- The envelope after its unit has run. -/
def Envelope.counted (e : Envelope) : Envelope :=
  if e.on then { e with counter := (countDown e.period e.counter).1 } else e

/-- What the envelope unit makes of its channel's voice: one step of an amplitude that is not 0, where it fires. -/
def Envelope.edit (mode : StereoMode) (e : Envelope) (o : Voice) : Voice :=
  if e.on ∧ (countDown e.period e.counter).2 = true ∧ o.gain.left ≠ 0 then
    o.withAmplitude mode (stepAmplitude e.direction o.gain.left)
  else o

theorem State.setEnv_env (s : State) (c : SquareChannel) : s.setEnv c (s.env c) = s := by
  cases c <;> rfl

theorem State.voice_setEnv (s : State) (c : SquareChannel) (e : Envelope) (v : Nat) :
    (s.setEnv c e).voice v = s.voice v :=
  State.voice_congr (s.setEnv_voices c e) (congrArg Config.stereoMode (s.setEnv_cfg c e)) v

/-- The amplitude that the unit reads is that of the voice it edits. -/
theorem State.envelopeUnit_eq (s : State) (c : SquareChannel) :
    s.envelopeUnit c =
      (s.setEnv c (s.env c).counted).modifyVoice c.channel.voice ((s.env c).edit s.cfg.stereoMode) := by
  by_cases hon : (s.env c).on
  case neg =>
    have hedit : (s.env c).edit s.cfg.stereoMode = id := funext fun o => if_neg fun h => hon h.1
    rw [State.envelopeUnit_of_off (not_not.mp hon), hedit, Envelope.counted, if_neg hon, State.setEnv_env,
      State.modifyVoice_id]
  case pos =>
    rw [Envelope.counted, if_pos hon]
    refine (if_pos hon).trans ?_
    rw [State.chanAmpRead, State.voice_setEnv, State.chanAmpWrite_eq_modifyVoice, State.setEnv_cfg]
    split_ifs with hsteps
    · refine State.modifyVoice_congr _ _ fun _ => ?_
      rw [State.voice_setEnv]
      exact (if_pos ⟨hon, hsteps⟩).symm
    · refine (State.modifyVoice_id _ _).symm.trans (State.modifyVoice_congr _ _ fun _ => ?_)
      rw [State.voice_setEnv]
      exact (if_neg fun h => hsteps h.2).symm

/-! ## The sweep unit (43 R198 to R200) -/

/-- The sweep counts and fires on this step. -/
abbrev Sweep.fires (w : Sweep) : Prop := w.armed ∧ (countDown w.period w.counter).2 = true

/-- A firing sweep's frequency is past the 11 bits. -/
abbrev Sweep.overflows (w : Sweep) : Prop := 2047 < sweptFrequency w

/-- The frequency that a firing sweep commits. -/
def Sweep.swept (w : Sweep) : BitVec 11 := BitVec.ofNat 11 (sweptFrequency w)

/-- The sweep's registers after its countdown. -/
def Sweep.counted (w : Sweep) : Sweep :=
  if w.armed then { w with counter := (countDown w.period w.counter).1 } else w

/-- The sweep's registers after its unit has run. -/
def Sweep.after (w : Sweep) : Sweep :=
  if w.fires then
    if w.overflows then { w.counted with enabled := false } else { w.counted with shadowFrequency := w.swept }
  else w.counted

/-- What the sweep unit makes of `fnum[0]`. -/
def Sweep.fnum (w : Sweep) (f : BitVec 11) : BitVec 11 :=
  if w.fires then if w.overflows then f else w.swept else f

/-- What the sweep unit makes of voice 0. -/
def Sweep.edit (cfg : Config) (w : Sweep) : Voice → Voice :=
  if w.fires then
    if w.overflows then Voice.withAmplitude cfg.stereoMode 0 else fun o => { o with tune := tuneOf cfg w.swept }
  else id

theorem State.sweepUnit_eq (s : State) :
    s.sweepUnit =
      ({ s with sweep := s.sweep.after, fnum0 := s.sweep.fnum s.fnum0 } : State).modifyVoice 0 (s.sweep.edit s.cfg) := by
  rw [Sweep.after, Sweep.fnum, Sweep.edit]
  by_cases hfires : s.sweep.fires
  case pos =>
    rw [if_pos hfires, if_pos hfires, if_pos hfires, Sweep.counted, if_pos hfires.1]
    refine (if_pos hfires.1).trans ((if_pos hfires.2).trans ?_)
    by_cases hover : s.sweep.overflows
    · rw [if_pos hover, if_pos hover, if_pos hover, if_pos hover, State.sweepOverflow, State.chanAmpWrite_eq_modifyVoice]
      rfl
    · rw [if_neg hover, if_neg hover, if_neg hover, if_neg hover]
      rfl
  case neg =>
    rw [if_neg hfires, if_neg hfires, if_neg hfires, State.modifyVoice_id, Sweep.counted]
    by_cases harmed : s.sweep.armed
    · rw [if_pos harmed]
      exact (if_pos harmed).trans (if_neg fun h => hfires ⟨harmed, h⟩)
    · rw [if_neg harmed]
      exact if_neg harmed

end Sys2Proof.Machine
end

section
/-! PROOFS. What an event can do, said once (44_host_ports, 42_register_interface, 40_synthesis, 43_frame_sequencer): the
events by the guard that performs them, and the state that each leaves. -/

namespace Sys2Proof.Machine

/-- The REGW events and the change that each makes, its return apart (42 R150). -/
inductive RegisterWrites : Instr → (State → State) → Prop where
  | sweep0 (d : Byte) : RegisterWrites (.regwSweep0 d) (fun s => s.setSweep
      { s.sweep with period := sweepPeriodOf d, negate := sweepNegateOf d, shift := sweepShiftOf d })
  | lenduty (c : SquareChannel) (d : Byte) : RegisterWrites (lendutyEvent c d) (fun s => s.writeLenduty c d)
  | env (c : SquareChannel) (d : Byte) : RegisterWrites (envEvent c d) (fun s => s.writeEnv c d)
  | flo (c : Channel) (d : Byte) : RegisterWrites (floEvent c d) (fun s => s.writeFlo c d)
  | fhi (c : Channel) (d : Byte) : RegisterWrites (fhiEvent c d) (fun s => s.writeFhi c d)
  | len2 (d : Byte) : RegisterWrites (.regwLen2 d) (fun s =>
      s.setLen .ch2 { s.len .ch2 with loadValue := d, counter := longCountOf d })
  | lvl2 (d : Byte) : RegisterWrites (.regwLvl2 d) (fun s => s.setWaveLevel (waveLevelOf d))
  | pat (k : BitVec 4) (d : Byte) : RegisterWrites (.regwPat k d) (fun s =>
      (s.writeByte (patternAddress k) (patternHighOf d)).writeByte (patternAddress k + 1) (patternLowOf d))
  | ignored (reg d : Byte) : RegisterWrites (.regwIgnored reg d) (fun s => s)

/-- The VPOKE events of a named field: the voice, and the change of it (44 R220 to R225). -/
inductive VoicePokes : Instr → BitVec 4 → (Voice → Voice) → Prop where
  | phase (v : BitVec 4) (x : BitVec 16) : VoicePokes (.vpokePhase v x) v (fun o => { o with phase := x })
  | tune (v : BitVec 4) (x : BitVec 16) : VoicePokes (.vpokeTune v x) v (fun o => { o with tune := x })
  | sel (v : BitVec 4) (x : Byte) : VoicePokes (.vpokeSel v x) v (fun o => { o with waveSelect := x })
  | mask (v : BitVec 4) (x : Byte) : VoicePokes (.vpokeMask v x) v (fun o => { o with waveMask := x })
  | ampl (v : BitVec 4) (x : Byte) : VoicePokes (.vpokeAmpl v x) v (fun o => { o with gain := o.gain.setLeft x })
  | ampr (v : BitVec 4) (x : Byte) : VoicePokes (.vpokeAmpr v x) v (fun o => { o with gain := o.gain.setRight x })

/-- The VPEEK events of a named field: the voice, and what is read of it (44 R227). -/
inductive VoicePeeks : Instr → BitVec 4 → (Voice → BitVec 16) → Prop where
  | phase (v : BitVec 4) : VoicePeeks (.vpeekPhase v) v (fun o => o.phase)
  | tune (v : BitVec 4) : VoicePeeks (.vpeekTune v) v (fun o => o.tune)
  | sel (v : BitVec 4) : VoicePeeks (.vpeekSel v) v (fun o => o.waveSelect.setWidth 16)
  | mask (v : BitVec 4) : VoicePeeks (.vpeekMask v) v (fun o => o.waveMask.setWidth 16)
  | ampl (v : BitVec 4) : VoicePeeks (.vpeekAmpl v) v (fun o => o.gain.left.setWidth 16)
  | ampr (v : BitVec 4) : VoicePeeks (.vpeekAmpr v) v (fun o => o.gain.right.setWidth 16)

/-- The state that an event leaves where it completes. -/
inductive Performs (s : State) : Instr → State → Prop where
  | register {i : Instr} {write : State → State} (hwrites : RegisterWrites i write) (hp : Spec.present s) :
      Performs s i ((write s).respond .nothing)
  | poke {i : Instr} {v : BitVec 4} {f : Voice → Voice} (hpokes : VoicePokes i v f) (hv : v.toNat < s.cfg.voiceCount) :
      Performs s i ((s.modifyVoice v.toNat f).respond .nothing)
  | peek {i : Instr} {v : BitVec 4} {field : Voice → BitVec 16} (hpeeks : VoicePeeks i v field)
      (hv : v.toNat < s.cfg.voiceCount) : Performs s i (s.respond (.field (field (s.voice v.toNat))))
  | wtwrite (a x : Byte) (ha : a.toNat < s.cfg.wavetableSize) :
      Performs s (.wtwrite a x) ((s.writeByte a.toNat x).respond .nothing)
  | wtread (a : Byte) (ha : a.toNat < s.cfg.wavetableSize) :
      Performs s (.wtread a) (s.respond (.sample (s.readByte a.toNat)))
  | oread : Performs s .oread (s.respond s.outputs)
  | mread : Performs s .mread (s.respond (.sums s.leftSum s.rightSum))
  | tickProcessed (hprocessed : Spec.processed s) : Performs s .tick { s.emitTick with div := Spec.dividerAfter s }
  | tickSkipped (hhalf : s.cfg.sampleRateDivider = .half) (hdiv : s.div = true) :
      Performs s .tick { s with div := false, response := Spec.outputs s.cfg.stereoMode s.outLeft s.outRight }
  | fclk (hp : Spec.present s) : Performs s .fclk (s.advanceStep.runUnits.respond .nothing)
  | init : Performs s .initEvent s.afterInit
  | begin (hp : Spec.present s) :
      Performs s .beginEvent (s.beginWavetable.beginVoices.beginRegisters.respond .nothing)

section
variable {i : Instr} {s t : State} {v : BitVec 4}

theorem RegisterWrites.exec_eq {write : State → State} (h : RegisterWrites i write) (s : State) :
    exec i s = registerWrite s write := by
  cases h
  case lenduty c d => cases c <;> rfl
  case env c d => cases c <;> rfl
  case flo c d => cases c <;> rfl
  case fhi c d => cases c <;> rfl
  all_goals rfl

theorem VoicePokes.exec_eq {f : Voice → Voice} (h : VoicePokes i v f) (s : State) :
    exec i s = pokeVoice s v (fun s => s.modifyVoice v.toNat f) := by
  cases h <;> rfl

theorem VoicePeeks.exec_eq {field : Voice → BitVec 16} (h : VoicePeeks i v field) (s : State) :
    exec i s = peekVoice s v field := by
  cases h <;> rfl

theorem RegisterWrites.performs {write : State → State} (h : RegisterWrites i write) (hexec : exec i s = .next t) :
    Performs s i t := by
  rw [h.exec_eq] at hexec
  obtain ⟨hp, rfl⟩ := registerWrite_next.mp hexec
  exact .register h hp

theorem VoicePokes.performs {f : Voice → Voice} (h : VoicePokes i v f) (hexec : exec i s = .next t) :
    Performs s i t := by
  rw [h.exec_eq] at hexec
  obtain ⟨hv, rfl⟩ := pokeVoice_next.mp hexec
  exact .poke h hv

theorem VoicePeeks.performs {field : Voice → BitVec 16} (h : VoicePeeks i v field) (hexec : exec i s = .next t) :
    Performs s i t := by
  rw [h.exec_eq] at hexec
  obtain ⟨hv, rfl⟩ := peekVoice_next.mp hexec
  exact .peek h hv

theorem performs_of_tick (hexec : exec .tick s = .next t) : Performs s .tick t := by
  by_cases hprocessed : Spec.processed s
  case pos =>
    obtain rfl := Host.Outcome.next.inj ((exec_tick_of_processed hprocessed).symm.trans hexec)
    exact .tickProcessed hprocessed
  case neg =>
    obtain ⟨hfull, hdiv⟩ := not_or.mp hprocessed
    have hhalf : s.cfg.sampleRateDivider = .half := by
      cases hdivider : s.cfg.sampleRateDivider
      case full => exact absurd hdivider hfull
      case half => rfl
    have hset : s.div = true := (Bool.not_eq_false _).mp hdiv
    obtain rfl := Host.Outcome.next.inj ((exec_tick_of_skipped hhalf hset).symm.trans hexec)
    exact .tickSkipped hhalf hset

/-- The inversion: an event that completes is performed as its guard says. -/
theorem performs_of_exec (h : exec i s = .next t) : Performs s i t := by
  cases i
  case regwSweep0 d => exact (RegisterWrites.sweep0 d).performs h
  case regwLenduty0 d => exact (RegisterWrites.lenduty .sq0 d).performs h
  case regwEnv0 d => exact (RegisterWrites.env .sq0 d).performs h
  case regwFlo0 d => exact (RegisterWrites.flo .ch0 d).performs h
  case regwFhi0 d => exact (RegisterWrites.fhi .ch0 d).performs h
  case regwLenduty1 d => exact (RegisterWrites.lenduty .sq1 d).performs h
  case regwEnv1 d => exact (RegisterWrites.env .sq1 d).performs h
  case regwFlo1 d => exact (RegisterWrites.flo .ch1 d).performs h
  case regwFhi1 d => exact (RegisterWrites.fhi .ch1 d).performs h
  case regwLen2 d => exact (RegisterWrites.len2 d).performs h
  case regwLvl2 d => exact (RegisterWrites.lvl2 d).performs h
  case regwFlo2 d => exact (RegisterWrites.flo .ch2 d).performs h
  case regwFhi2 d => exact (RegisterWrites.fhi .ch2 d).performs h
  case regwPat k d => exact (RegisterWrites.pat k d).performs h
  case regwIgnored reg d => exact (RegisterWrites.ignored reg d).performs h
  case tick => exact performs_of_tick h
  case fclk =>
    simp only [exec] at h
    obtain ⟨hp, rfl⟩ := whenInterpreter_next.mp h
    exact .fclk hp
  case vpokePhase v x => exact (VoicePokes.phase v x).performs h
  case vpokeTune v x => exact (VoicePokes.tune v x).performs h
  case vpokeSel v x => exact (VoicePokes.sel v x).performs h
  case vpokeMask v x => exact (VoicePokes.mask v x).performs h
  case vpokeAmpl v x => exact (VoicePokes.ampl v x).performs h
  case vpokeAmpr v x => exact (VoicePokes.ampr v x).performs h
  case vpokeBadfield v field x => simp [exec_vpokeBadfield] at h
  case vpeekPhase v => exact (VoicePeeks.phase v).performs h
  case vpeekTune v => exact (VoicePeeks.tune v).performs h
  case vpeekSel v => exact (VoicePeeks.sel v).performs h
  case vpeekMask v => exact (VoicePeeks.mask v).performs h
  case vpeekAmpl v => exact (VoicePeeks.ampl v).performs h
  case vpeekAmpr v => exact (VoicePeeks.ampr v).performs h
  case vpeekBadfield v field => simp [exec_vpeekBadfield] at h
  case wtwrite a x =>
    simp only [exec] at h
    obtain ⟨ha, rfl⟩ := whenAddress_next.mp h
    exact .wtwrite a x ha
  case wtread a =>
    simp only [exec] at h
    obtain ⟨ha, rfl⟩ := whenAddress_next.mp h
    exact .wtread a ha
  case oread =>
    obtain rfl := Host.Outcome.next.inj h
    exact .oread
  case mread =>
    obtain rfl := Host.Outcome.next.inj h
    exact .mread
  case initEvent =>
    obtain rfl := Host.Outcome.next.inj h
    exact .init
  case beginEvent =>
    simp only [exec] at h
    obtain ⟨hp, rfl⟩ := whenInterpreter_next.mp h
    exact .begin hp
  case reservedB | reservedC | reservedD | reservedE | reservedF => contradiction

/-- The converse: what is performed is what the event answers. -/
theorem Performs.exec_eq (h : Performs s i t) : exec i s = .next t := by
  cases h with
  | register hwrites hp => rw [hwrites.exec_eq, registerWrite_of_present hp]
  | poke hpokes hv => exact (hpokes.exec_eq s).trans (pokeVoice_next.mpr ⟨hv, rfl⟩)
  | peek hpeeks hv => exact (hpeeks.exec_eq s).trans (peekVoice_next.mpr ⟨hv, rfl⟩)
  | wtwrite a x ha =>
    simp only [exec]
    exact whenAddress_next.mpr ⟨ha, rfl⟩
  | wtread a ha =>
    simp only [exec]
    exact whenAddress_next.mpr ⟨ha, rfl⟩
  | oread => rfl
  | mread => rfl
  | tickProcessed hprocessed => exact exec_tick_of_processed hprocessed
  | tickSkipped hhalf hdiv => exact exec_tick_of_skipped hhalf hdiv
  | fclk hp => exact exec_fclk_of_present hp
  | init => rfl
  | begin hp =>
    simp only [exec]
    exact whenInterpreter_next.mpr ⟨hp, rfl⟩

end

end Sys2Proof.Machine
end

section
/-! PROOFS. The port and the invariant (20_memory R67, 60_exceptions R251): what a step takes from the port, that a
constructed block satisfies the invariant and that every event keeps it. -/

namespace Sys2Proof.Machine

/-! ## The port (20 R67) -/

section
variable {s : State}

theorem step_of_pending {w : EventWord} {rest : List EventWord} (h : s.pending = w :: rest) :
    step s = exec (decode w) { s with pending := rest } := by
  rw [step, nextEvent, h]

theorem step_of_idle (h : s.pending = []) : step s = .next s := by
  rw [step, nextEvent, h]

end

/-- Settles O9: the port holds a word or none. -/
theorem stepPerformsTheNextEvent : Obligations.StepPerformsTheNextEvent :=
  fun _ => ⟨fun _ _ => step_of_pending, step_of_idle⟩

/-- A step that answers a state performs the head event on the state that has taken it off, or is idle. -/
theorem step_next_cases {s t : State} (h : step s = .next t) :
    (∃ w rest, s.pending = w :: rest ∧ Performs { s with pending := rest } (decode w) t) ∨ t = s := by
  cases hpending : s.pending with
  | nil => exact .inr (Host.Outcome.next.inj ((step_of_idle hpending).symm.trans h)).symm
  | cons w rest => exact .inl ⟨w, rest, rfl, performs_of_exec ((step_of_pending hpending).symm.trans h)⟩

/-! ## Construction (00_scope R8, R9, 10_state R40) -/

/-- The power-on state of a legal configuration is a constructed one. -/
theorem inv_initial {cfg : Config} (hlegal : cfg.legal) : (State.initial cfg).Inv where
  legal := hlegal
  voiceFile := List.length_replicate
  gains := by
    intro o ho
    rw [List.eq_of_mem_replicate ho]
    exact Gain.zero_fits _
  wavetable := memWf_nil cfg
  rrBelow := by
    obtain ⟨hcount, -⟩ := hlegal
    simp only [legalVoiceCounts, List.mem_cons, List.not_mem_nil, or_false] at hcount
    change 0 < cfg.voiceCount
    omega
  rrEven := fun _ => rfl
  divider := fun _ => rfl
  leftBound := Nat.zero_le _
  rightBound := Nat.zero_le _
  rightAbsent := fun _ => ⟨rfl, rfl⟩
  volume0 := BitVec.zero_and
  volume1 := BitVec.zero_and
  countdown0 := Nat.zero_le _
  countdown1 := Nat.zero_le _
  level := List.mem_cons_self
  load0 := Nat.zero_lt_succ _
  load1 := Nat.zero_lt_succ _
  count0 := Nat.zero_le _
  count1 := Nat.zero_le _
  count2 := Nat.zero_le _

/-- Settles O13: the reset state is the power-on state of a legal configuration. -/
theorem resetSatisfiesTheInvariant : Obligations.ResetSatisfiesTheInvariant := inv_initial (by decide)

/-- A limit of the configuration that is tried first passes exactly where it is not broken. -/
theorem ite_some_eq_none_iff {α : Type} {broken : Prop} [Decidable broken] {e : α} {rest : Option α} :
    (if broken then some e else rest) = none ↔ ¬ broken ∧ rest = none := by
  split <;> simp_all

/-- Construction admits the configurations of 00_scope R8 and R9: the limits, each as it is tried. -/
theorem configError_eq_none_iff (cfg : Config) : configError cfg = none ↔ cfg.legal := by
  have hrate : ¬ (cfg.timerBaseRate.num = 0 ∨ cfg.timerBaseRate.den = 0) ↔
      0 < cfg.timerBaseRate.num ∧ 0 < cfg.timerBaseRate.den := by omega
  have hsine : ¬ (cfg.quarterSine.length ≠ 16 ∨ ∃ q ∈ cfg.quarterSine, q = 0) ↔
      cfg.quarterSine.length = 16 ∧ ∀ q ∈ cfg.quarterSine, q ≠ 0 := by push Not; rfl
  simp only [configError, ite_some_eq_none_iff, hrate, hsine, not_not, and_true, Config.legal]

/-- The limits as the statement lists them are the model's. -/
theorem legal_iff (cfg : Config) :
    cfg.legal ↔
      (cfg.voiceCount = 2 ∨ cfg.voiceCount = 4 ∨ cfg.voiceCount = 6 ∨ cfg.voiceCount = 8 ∨ cfg.voiceCount = 10)
        ∧ (cfg.wavetableSize = 128 ∨ cfg.wavetableSize = 256)
        ∧ 0 < cfg.timerBaseRate.num ∧ 0 < cfg.timerBaseRate.den
        ∧ cfg.quarterSine.length = 16 ∧ (∀ q ∈ cfg.quarterSine, 1 ≤ q.toNat)
        ∧ (cfg.registerInterpreter = .present → cfg.wavetableSize = 256 ∧ 4 ≤ cfg.voiceCount) := by
  have hsample (q : Byte) : q ≠ 0 ↔ 1 ≤ q.toNat := by
    rw [Nat.one_le_iff_ne_zero, ← BitVec.toNat_inj.ne]
    rfl
  simp only [Config.legal, legalVoiceCounts, legalWavetableSizes, List.mem_cons, List.not_mem_nil, or_false, hsample,
    and_assoc]

/-- Settles O14: the tests of construction pass exactly at the legal configurations, whose power-on state is a
constructed one. -/
theorem constructionAdmitsExactlyTheLegalConfigurations :
    Obligations.ConstructionAdmitsExactlyTheLegalConfigurations := by
  intro cfg legal
  have hlegal : cfg.legal ↔ legal := legal_iff cfg
  rw [← hlegal, ← configError_eq_none_iff]
  unfold construct
  cases herror : configError cfg with
  | none => exact ⟨fun _ => ⟨rfl, inv_initial ((configError_eq_none_iff cfg).mp herror)⟩, fun h => absurd rfl h⟩
  | some e => exact ⟨fun h => absurd h (by simp), fun _ => ⟨e, rfl⟩⟩

/-! ## Every event keeps the invariant -/

section
variable {i : Instr} {s t : State}

theorem waveLevelOf_mem (d : Byte) : waveLevelOf d ∈ [(0x00 : Byte), 0xF0, 0x78, 0x3C] := by
  unfold waveLevelOf
  split <;> simp

/-- LEN2 loads at most 256 (42 R163). -/
theorem longCountOf_le (d : Byte) : (longCountOf d).toNat ≤ lengthBound .ch2 := by
  rw [longCountOf, BitVec.toNat_ofNat]
  exact (Nat.mod_le _ _).trans (Nat.sub_le _ _)

/-- Both addresses that PAT writes exist where the interpreter does (42 R167, 00_scope R9). -/
theorem patternAddress_lt (k : BitVec 4) : patternAddress k + 1 < 256 := by
  have := k.isLt
  simp only [patternAddress, patternBase]
  omega

theorem inv_registerWrites {write : State → State} (hwrites : RegisterWrites i write) (hp : Spec.present s) (h : s.Inv) :
    (write s).Inv := by
  obtain ⟨hsize, -⟩ := h.present_fits hp
  cases hwrites with
  | sweep0 d => exact inv_setSweep h _
  | lenduty c d => exact inv_writeLenduty h c d
  | env c d => exact inv_writeEnv h c d
  | flo c d => exact inv_setFnum h c _
  | fhi c d => exact inv_writeFhi h c d
  | len2 d => exact inv_setLen h .ch2 (longCountOf_le d) fun hne => absurd rfl hne
  | lvl2 d => exact inv_setWaveLevel h (waveLevelOf_mem d)
  | pat k d =>
    have hlast : patternAddress k + 1 < s.cfg.wavetableSize := hsize ▸ patternAddress_lt k
    exact inv_writeByte (inv_writeByte h (Nat.lt_of_succ_lt hlast) _) hlast _
  | ignored reg d => exact h

theorem inv_voicePokes {v : BitVec 4} {f : Voice → Voice} (hpokes : VoicePokes i v f) (h : s.Inv) :
    (s.modifyVoice v.toNat f).Inv := by
  cases hpokes with
  | phase v x => exact inv_setPhase h _ x
  | tune v x => exact inv_setTune h _ x
  | sel v x => exact inv_setWaveSelect h _ x
  | mask v x => exact inv_setWaveMask h _ x
  | ampl v x => exact inv_setAmplitudeLeft h _ x
  | ampr v x => exact inv_setAmplitudeRight h _ x

/-- The invariant reads the divider bit under Full alone. -/
theorem inv_setDiv (h : s.Inv) {b : Bool} (hb : s.cfg.sampleRateDivider = .full → b = false) :
    ({ s with div := b } : State).Inv :=
  { h with divider := hb }

/-- A processed strobe keeps the divider bit under Full (40 R111). -/
theorem State.Inv.dividerAfter_of_full (h : s.Inv) (hfull : s.cfg.sampleRateDivider = .full) :
    Spec.dividerAfter s = false := by
  rw [Spec.dividerAfter, if_neg (by rw [hfull]; decide)]
  exact h.divider hfull

theorem inv_performs (h : s.Inv) (hperforms : Performs s i t) : t.Inv := by
  cases hperforms with
  | register hwrites hp => exact inv_respond (inv_registerWrites hwrites hp h) _
  | poke hpokes hv => exact inv_respond (inv_voicePokes hpokes h) _
  | peek hpeeks hv => exact inv_respond h _
  | wtwrite a x ha => exact inv_respond (inv_writeByte h ha x) _
  | wtread a ha => exact inv_respond h _
  | oread => exact inv_respond h _
  | mread => exact inv_respond h _
  | tickProcessed hprocessed =>
    exact inv_setDiv (inv_respond (inv_processTick h) _) fun hfull =>
      h.dividerAfter_of_full (s.emitTick_cfg ▸ hfull)
  | tickSkipped hhalf hdiv => exact inv_respond (inv_setDiv h fun _ => rfl) _
  | fclk hp => exact inv_respond (inv_runUnits (inv_advanceStep h)) _
  | init => exact { inv_initial h.legal with }
  | begin hp =>
    exact inv_respond (inv_beginRegisters (inv_beginVoices (inv_beginWavetable h (h.present_fits hp).1))) _

end

/-- Settles O12: the events still to come are no part of the invariant, and every event keeps it. -/
theorem stepKeepsTheInvariant : Obligations.StepKeepsTheInvariant := by
  intro s t h hstep
  obtain ⟨w, rest, -, hperforms⟩ | rfl := step_next_cases hstep
  · exact inv_performs (s := { s with pending := rest }) { h with } hperforms
  · exact h

end Sys2Proof.Machine
end

section
/-! PROOFS. The decoder and the encoder (30_encoding R81 to R87, R94): each event is read back from the word that the
encoder writes, and each word is of the row of the event that it decodes to. -/

namespace Sys2Proof

/-! ## Decoding an encoded event -/

theorem decode_regwWord (reg d : Byte) : decode (regwWord reg d) = decodeRegw reg d := decode_regw 0x0 reg 0x00 d

theorem decode_vpokeWord (voice : BitVec 4) (field : BitVec 3) (value : BitVec 16) :
    decode (voiceWord 0x3 voice field value) = decodeVpoke voice field value :=
  decode_vpoke voice 0#1 field 0x0 value

theorem decode_vpeekWord (voice : BitVec 4) (field : BitVec 3) (value : BitVec 16) :
    decode (voiceWord 0x4 voice field value) = decodeVpeek voice field :=
  decode_vpeek voice 0#1 field 0x0 value

/-- A byte field of VPOKE is the low byte of the value that the encoder writes. -/
theorem low_byte_of_value (x : Byte) : (0x00#8 ++ x : BitVec 16).extractLsb' 0 8 = x :=
  (extractLsb'_low (by decide)).trans (extractLsb'_whole x)

theorem decode_vpokeWord_byte {voice : BitVec 4} {field : BitVec 3} {event : BitVec 4 → Byte → Instr}
    (hfield : ∀ value, decodeVpoke voice field value = event voice (value.extractLsb' 0 8)) (x : Byte) :
    decode (voiceWord 0x3 voice field (0x00#8 ++ x)) = event voice x := by
  rw [decode_vpokeWord, hfield, low_byte_of_value]

/-- Settles O1: the words of the five kinds with operand fields are read back field by field and the other kinds are closed
words. A row of left-over operands is read back because its event is well-formed. -/
theorem decodeOfEncodeGivesTheEventBack : Obligations.DecodeOfEncodeGivesTheEventBack := by
  intro i hwf
  cases i
  case regwPat k d => exact (decode_regwWord _ d).trans (decodeRegw_pattern k d)
  case regwIgnored reg d =>
    have hreg : ¬ decodedRegister reg := of_decide_eq_false ((Bool.not_eq_true' _).mp hwf)
    exact (decode_regwWord reg d).trans (decodeRegw_ignored d hreg)
  case vpokePhase v x => exact decode_vpokeWord v 0 x
  case vpokeTune v x => exact decode_vpokeWord v 1 x
  case vpokeSel v x => exact decode_vpokeWord_byte (fun _ => rfl) x
  case vpokeMask v x => exact decode_vpokeWord_byte (fun _ => rfl) x
  case vpokeAmpl v x => exact decode_vpokeWord_byte (fun _ => rfl) x
  case vpokeAmpr v x => exact decode_vpokeWord_byte (fun _ => rfl) x
  case vpokeBadfield v field x =>
    exact (decode_vpokeWord v field x).trans (decodeVpoke_badField (of_decide_eq_true hwf) v x)
  case vpeekPhase v => exact decode_vpeekWord v 0 0
  case vpeekTune v => exact decode_vpeekWord v 1 0
  case vpeekSel v => exact decode_vpeekWord v 2 0
  case vpeekMask v => exact decode_vpeekWord v 3 0
  case vpeekAmpl v => exact decode_vpeekWord v 4 0
  case vpeekAmpr v => exact decode_vpeekWord v 5 0
  case vpeekBadfield v field =>
    exact (decode_vpeekWord v field 0).trans (decodeVpeek_badField (of_decide_eq_true hwf) v)
  case wtwrite a x => exact decode_wtwrite 0x0 a 0x00 x
  case wtread a => exact decode_wtread 0x0 a 0x00 0
  case regwSweep0 | regwLenduty0 | regwEnv0 | regwFlo0 | regwFhi0 | regwLenduty1 | regwEnv1 | regwFlo1 | regwFhi1
      | regwLen2 | regwLvl2 | regwFlo2 | regwFhi2 => exact decode_regwWord _ _
  case tick | fclk | oread | mread | initEvent | beginEvent | reservedB | reservedC | reservedD | reservedE | reservedF =>
    rfl

/-! ## The row of a decoded word -/

/-- A word is of a table row (opcode_table.json). -/
def TableRow.Matches (r : TableRow) (w : EventWord) : Prop := w &&& r.mask = r.bits

/-- The row of a kind as a whole. -/
def plainRow (kind : BitVec 4) : TableRow := ⟨plainWord kind, 0xF#4 ++ 0#28⟩

/-- The row of a REGW by the bits of its register that `m` keeps. -/
def registerRow (reg m : Byte) : TableRow := ⟨regwWord (reg &&& m) 0x00, 0xF#4 ++ 0x0#4 ++ m ++ 0x00#8 ++ 0x00#8⟩

/-- The row of a VPOKE or VPEEK by the bits of its field code that `m` keeps. -/
def voiceRow (kind : BitVec 4) (field m : BitVec 3) : TableRow :=
  ⟨voiceWord kind 0 (field &&& m) 0, 0xF#4 ++ 0x0#4 ++ 0#1 ++ m ++ 0x0#4 ++ 0x0000#16⟩

theorem and_all_ones : ∀ kind : BitVec 4, kind &&& 0xF#4 = kind := by decide

theorem kind_eq_ofNat {w : EventWord} {n : Nat} (h : (w.extractLsb' 28 4).toNat = n) :
    w.extractLsb' 28 4 = BitVec.ofNat 4 n := by
  rw [← h, BitVec.ofNat_toNat, BitVec.setWidth_eq]

section
variable (w : EventWord)

/-- A word as its kind and the rest. -/
theorem word_eq_plain : (w.extractLsb' 28 4 ++ w.extractLsb' 0 28 : BitVec 32) = w :=
  BitVec.eq_of_getLsbD_eq fun i hi => by grind

/-- A word as the fields of REGW. -/
theorem word_eq_bytes :
    (w.extractLsb' 28 4 ++ w.extractLsb' 24 4 ++ w.extractLsb' 16 8 ++ w.extractLsb' 8 8 ++ w.extractLsb' 0 8 : BitVec 32)
      = w :=
  BitVec.eq_of_getLsbD_eq fun i hi => by grind

/-- A word as the fields of VPOKE and VPEEK. -/
theorem word_eq_voice :
    (w.extractLsb' 28 4 ++ w.extractLsb' 24 4 ++ w.extractLsb' 23 1 ++ w.extractLsb' 20 3 ++ w.extractLsb' 16 4
      ++ w.extractLsb' 0 16 : BitVec 32) = w :=
  BitVec.eq_of_getLsbD_eq fun i hi => by grind

theorem plainRow_matches {n : Nat} (hkind : (w.extractLsb' 28 4).toNat = n) :
    (plainRow (BitVec.ofNat 4 n)).Matches w := by
  have hrow (kind : BitVec 4) (x : BitVec 28) : (plainRow kind).Matches (kind ++ x) :=
    BitVec.and_append.trans (by rw [and_all_ones, BitVec.and_zero]; rfl)
  have hmatches := hrow (w.extractLsb' 28 4) (w.extractLsb' 0 28)
  rwa [word_eq_plain w, kind_eq_ofNat hkind] at hmatches

theorem registerRow_matches (hkind : (w.extractLsb' 28 4).toNat = 0x0) (m : Byte) :
    (registerRow (w.extractLsb' 16 8) m).Matches w := by
  have hrow (x : BitVec 4) (reg h d : Byte) : (registerRow reg m).Matches (0x0#4 ++ x ++ reg ++ h ++ d) :=
    (and_append_five 0x0#4 0xF#4 x 0x0#4 reg m h 0x00#8 d 0x00#8).trans (by simp only [BitVec.and_zero]; rfl)
  have hmatches := hrow (w.extractLsb' 24 4) (w.extractLsb' 16 8) (w.extractLsb' 8 8) (w.extractLsb' 0 8)
  rwa [← kind_eq_ofNat hkind, word_eq_bytes w] at hmatches

theorem voiceRow_matches {n : Nat} (hkind : (w.extractLsb' 28 4).toNat = n) (m : BitVec 3) :
    (voiceRow (BitVec.ofNat 4 n) (w.extractLsb' 20 3) m).Matches w := by
  have hrow (kind v : BitVec 4) (b : BitVec 1) (field : BitVec 3) (x : BitVec 4) (value : BitVec 16) :
      (voiceRow kind field m).Matches (kind ++ v ++ b ++ field ++ x ++ value) :=
    (BitVec.and_append (x₁ := kind ++ v ++ b ++ field ++ x) (x₂ := 0xF#4 ++ 0x0#4 ++ 0#1 ++ m ++ 0x0#4) (y₁ := value)
      (y₂ := 0x0000#16)).trans (by rw [and_append_five, and_all_ones]; simp only [BitVec.and_zero]; rfl)
  have hmatches := hrow (w.extractLsb' 28 4) (w.extractLsb' 24 4) (w.extractLsb' 23 1) (w.extractLsb' 20 3)
    (w.extractLsb' 16 4) (w.extractLsb' 0 16)
  rwa [word_eq_voice w, kind_eq_ofNat hkind] at hmatches

end

/-- An event is well-formed and of a table row. -/
def Instr.OfRow (i : Instr) (r : TableRow) : Prop := i.wellFormed = true ∧ i.row = r

/-- The rows of the register map: each named register of its whole address, the pattern registers of their high nibble, all
others of no bit (30_encoding R87). -/
theorem decodeRegw_ofRow (reg d : Byte) : ∃ m, (decodeRegw reg d).OfRow (registerRow reg m) := by
  by_cases hdecoded : decodedRegister reg
  case neg =>
    refine ⟨0x00, decodeRegw_ignored d hdecoded ▸ ⟨?_, ?_⟩⟩
    · simp [Instr.wellFormed, hdecoded]
    · exact congrArg (fun bits => TableRow.mk (regwWord bits 0x00) 0xF0000000) BitVec.and_zero.symm
  case pos =>
    obtain hnamed | hpattern := hdecoded
    · refine ⟨0xFF, ?_⟩
      simp only [namedRegisters, List.mem_cons, List.not_mem_nil, or_false] at hnamed
      obtain rfl | rfl | rfl | rfl | rfl | rfl | rfl | rfl | rfl | rfl | rfl | rfl | rfl := hnamed <;> exact ⟨rfl, rfl⟩
    · have hnibble : ∀ reg : Byte, 0x30 ≤ reg.toNat ∧ reg.toNat ≤ 0x3F →
          reg = 0x3#4 ++ reg.extractLsb' 0 4 ∧ reg &&& 0xF0 = 0x30 := by decide
      obtain ⟨hreg, hhigh⟩ := hnibble reg hpattern
      refine ⟨0xF0, ?_⟩
      rw [registerRow, hhigh, hreg, decodeRegw_pattern]
      exact ⟨rfl, rfl⟩

/-- The field codes: six of all three bits, and the reserved two of their upper two. -/
theorem fieldCodes (field : BitVec 3) : (∃ n : Fin 6, field = BitVec.ofNat 3 n) ∨ badField field := by
  revert field; decide

theorem decodeVpoke_ofRow (v : BitVec 4) (field : BitVec 3) (value : BitVec 16) :
    ∃ m, (decodeVpoke v field value).OfRow (voiceRow 0x3 field m) := by
  obtain ⟨n, rfl⟩ | hbad := fieldCodes field
  · exact ⟨7, by fin_cases n <;> exact ⟨rfl, rfl⟩⟩
  · exact ⟨6, by obtain rfl | rfl := hbad <;> exact ⟨rfl, rfl⟩⟩

theorem decodeVpeek_ofRow (v : BitVec 4) (field : BitVec 3) :
    ∃ m, (decodeVpeek v field).OfRow (voiceRow 0x4 field m) := by
  obtain ⟨n, rfl⟩ | hbad := fieldCodes field
  · exact ⟨7, by fin_cases n <;> exact ⟨rfl, rfl⟩⟩
  · exact ⟨6, by obtain rfl | rfl := hbad <;> exact ⟨rfl, rfl⟩⟩

/-- Settles O2: by the kind of the word, its event is of a row that the word matches. -/
theorem decodedWordsMatchTheirTableRow : Obligations.DecodedWordsMatchTheirTableRow := by
  intro w
  suffices h : ∃ r, (decode w).OfRow r ∧ r.Matches w by
    obtain ⟨r, ⟨hwf, hrow⟩, hmatches⟩ := h
    exact ⟨hwf, hrow ▸ hmatches⟩
  unfold decode
  split
  case h_1 regw =>
    obtain ⟨m, hrow⟩ := decodeRegw_ofRow (w.extractLsb' 16 8) (w.extractLsb' 0 8)
    exact ⟨_, hrow, registerRow_matches w regw m⟩
  case h_4 vpoke =>
    obtain ⟨m, hrow⟩ := decodeVpoke_ofRow (w.extractLsb' 24 4) (w.extractLsb' 20 3) (w.extractLsb' 0 16)
    exact ⟨_, hrow, voiceRow_matches w vpoke m⟩
  case h_5 vpeek =>
    obtain ⟨m, hrow⟩ := decodeVpeek_ofRow (w.extractLsb' 24 4) (w.extractLsb' 20 3)
    exact ⟨_, hrow, voiceRow_matches w vpeek m⟩
  case h_2 h | h_3 h | h_6 h | h_7 h | h_8 h | h_9 h | h_10 h | h_11 h | h_12 h | h_13 h | h_14 h | h_15 h =>
    exact ⟨_, ⟨rfl, rfl⟩, plainRow_matches w h⟩
  case h_16 =>
    have hlast : (w.extractLsb' 28 4).toNat = 0xF := by grind
    exact ⟨_, ⟨rfl, rfl⟩, plainRow_matches w hlast⟩

end Sys2Proof
end

section
/-! PROOFS. What an event leaves as it is: the configuration, the engine, the wavetable and the port (10_state R20 to R30,
20_memory R67), event by event from what each performs. -/

namespace Sys2Proof.Machine

/-- The state of the synthesis engine: `rr`, the divider bit, the sums and the outputs (10_state R26 to R30). -/
def State.engine (s : State) : Nat × Bool × BitVec 20 × BitVec 20 × Byte × Byte :=
  (s.rr, s.div, s.leftSum, s.rightSum, s.outLeft, s.outRight)

/-! ## The frames of the larger operations -/

section
variable {i : Instr} {s t : State}

/-- A REGW writes voices, the wavetable and the register interface alone (42 R150, R151). -/
theorem RegisterWrites.only {write : State → State} (h : RegisterWrites i write) (s : State) :
    ∃ vs m f0 f1 f2 e0 e1 level l0 l1 l2 w, write s =
      { s with
        voices := vs, wavetable := m, fnum0 := f0, fnum1 := f1, fnum2 := f2, env0 := e0, env1 := e1, waveLevel := level,
        len0 := l0, len1 := l1, len2 := l2, sweep := w } := by
  cases h with
  | sweep0 d => exact ⟨_, _, _, _, _, _, _, _, _, _, _, _, rfl⟩
  | lenduty c d =>
    obtain ⟨vs, l0, l1, hwrite⟩ := s.writeLenduty_only c d
    exact ⟨_, _, _, _, _, _, _, _, _, _, _, _, hwrite⟩
  | env c d =>
    obtain ⟨e0, e1, hwrite⟩ := s.writeEnv_only c d
    exact ⟨_, _, _, _, _, _, _, _, _, _, _, _, hwrite⟩
  | flo c d =>
    obtain ⟨f0, f1, f2, hwrite⟩ := s.writeFlo_only c d
    exact ⟨_, _, _, _, _, _, _, _, _, _, _, _, hwrite⟩
  | fhi c d =>
    obtain ⟨vs, f0, f1, f2, l0, l1, l2, e0, e1, w, hwrite⟩ := s.writeFhi_only c d
    exact ⟨_, _, _, _, _, _, _, _, _, _, _, _, hwrite⟩
  | len2 d => exact ⟨_, _, _, _, _, _, _, _, _, _, _, _, rfl⟩
  | lvl2 d => exact ⟨_, _, _, _, _, _, _, _, _, _, _, _, rfl⟩
  | pat k d => exact ⟨_, _, _, _, _, _, _, _, _, _, _, _, rfl⟩
  | ignored reg d => exact ⟨_, _, _, _, _, _, _, _, _, _, _, _, rfl⟩

@[simp] theorem State.writeFhi_wavetable (s : State) (c : Channel) (d : Byte) :
    (s.writeFhi c d).wavetable = s.wavetable := by
  obtain ⟨vs, f0, f1, f2, l0, l1, l2, e0, e1, w, hwrite⟩ := s.writeFhi_only c d
  rw [hwrite]

/-- A REGW other than PAT keeps the wavetable. -/
theorem RegisterWrites.wavetable_eq {write : State → State} (h : RegisterWrites i write)
    (hpat : ∀ k d, i ≠ .regwPat k d) (s : State) : (write s).wavetable = s.wavetable := by
  cases h with
  | pat k d => exact absurd rfl (hpat k d)
  | fhi c d => exact s.writeFhi_wavetable c d
  | lenduty c d => cases c <;> rfl
  | env c d => cases c <;> rfl
  | flo c d => cases c <;> rfl
  | sweep0 d | len2 d | lvl2 d | ignored reg d => rfl

theorem State.beginVoices_only (s : State) : ∃ vs, s.beginVoices = { s with voices := vs } := by
  obtain ⟨vs0, h0⟩ := s.beginVoice_only .ch0
  obtain ⟨vs1, h1⟩ := (s.beginVoice .ch0).beginVoice_only .ch1
  obtain ⟨vs2, h2⟩ := ((s.beginVoice .ch0).beginVoice .ch1).beginVoice_only .ch2
  exact ⟨vs2, by rw [State.beginVoices, h2, h1, h0]⟩

end

/-! ## The frame of FCLK's units (43 R190) -/

/-- From s to t only the voice file, `fnum[0]`, the units' counters and the sweep's state may have changed. -/
def UnitsOnly (s t : State) : Prop :=
  ∃ vs f n0 n1 m0 m1 m2 k shadow enabled, t =
    { s with
      voices := vs, fnum0 := f, env0 := { s.env0 with counter := n0 }, env1 := { s.env1 with counter := n1 },
      len0 := { s.len0 with counter := m0 }, len1 := { s.len1 with counter := m1 },
      len2 := { s.len2 with counter := m2 },
      sweep := { s.sweep with counter := k, shadowFrequency := shadow, enabled := enabled } }

theorem UnitsOnly.refl (s : State) : UnitsOnly s s := ⟨_, _, _, _, _, _, _, _, _, _, rfl⟩

theorem UnitsOnly.trans {s t u : State} (h : UnitsOnly s t) (h' : UnitsOnly t u) : UnitsOnly s u := by
  obtain ⟨_, _, _, _, _, _, _, _, _, _, rfl⟩ := h
  obtain ⟨_, _, _, _, _, _, _, _, _, _, rfl⟩ := h'
  exact ⟨_, _, _, _, _, _, _, _, _, _, rfl⟩

theorem State.lengthUnit_unitsOnly (s : State) (c : Channel) : UnitsOnly s (s.lengthUnit c) := by
  obtain ⟨vs, n0, n1, n2, hunit⟩ := s.lengthUnit_only c
  exact ⟨_, _, _, _, _, _, _, _, _, _, hunit⟩

theorem State.envelopeUnit_unitsOnly (s : State) (c : SquareChannel) : UnitsOnly s (s.envelopeUnit c) := by
  obtain ⟨vs, n0, n1, hunit⟩ := s.envelopeUnit_only c
  exact ⟨_, _, _, _, _, _, _, _, _, _, hunit⟩

theorem State.sweepUnit_unitsOnly (s : State) : UnitsOnly s s.sweepUnit := by
  obtain ⟨vs, f, n, sf, en, hunit⟩ := s.sweepUnit_only
  exact ⟨_, _, _, _, _, _, _, _, _, _, hunit⟩

/-- What every unit does, FCLK's units do: a relation between states that is reflexive and transitive and that each unit
keeps to holds of the units of any step. -/
theorem State.runUnits_induction {R : State → State → Prop} (refl : ∀ s, R s s)
    (trans : ∀ {s t u}, R s t → R t u → R s u) (length : ∀ s c, R s (s.lengthUnit c))
    (envelope : ∀ s c, R s (s.envelopeUnit c)) (sweep : ∀ s, R s s.sweepUnit) (s : State) : R s s.runUnits := by
  have hlengths (s : State) : R s s.lengthUnits := trans (trans (length s .ch0) (length _ .ch1)) (length _ .ch2)
  have henvelopes (s : State) : R s s.envelopeUnits := trans (envelope s .sq0) (envelope _ .sq1)
  have hite {s t u : State} (p : Prop) [Decidable p] (h : R s t) (h' : R t u) : R s (if p then u else t) := by
    split
    · exact trans h h'
    · exact h
  exact hite _ (hite _ (hite _ (refl s) (hlengths s)) (sweep _)) (henvelopes _)

theorem State.runUnits_unitsOnly (s : State) : UnitsOnly s s.runUnits :=
  State.runUnits_induction UnitsOnly.refl UnitsOnly.trans State.lengthUnit_unitsOnly State.envelopeUnit_unitsOnly
    State.sweepUnit_unitsOnly s

/-! ## What is kept across all events -/

section
variable {i : Instr} {s t : State}

/-- No event writes the configuration (00_scope R8). -/
theorem Performs.cfg_eq (h : Performs s i t) : t.cfg = s.cfg := by
  cases h with
  | register hwrites hp =>
    obtain ⟨_, _, _, _, _, _, _, _, _, _, _, _, hwrite⟩ := hwrites.only s
    rw [hwrite]; rfl
  | tickProcessed hprocessed => exact s.emitTick_cfg
  | fclk hp => exact s.advanceStep.runUnits_keeps.2
  | begin hp =>
    obtain ⟨m, hm⟩ := s.beginWavetable_only
    obtain ⟨vs, hvs⟩ := s.beginWavetable.beginVoices_only
    rw [hvs, hm]; rfl
  | poke | peek | wtwrite | wtread | oread | mread | tickSkipped | init => rfl

/-- The engine belongs to TICK and INIT (10_state R26 to R30). -/
theorem Performs.engine_eq (h : Performs s i t) (htick : i ≠ .tick) (hinit : i ≠ .initEvent) : t.engine = s.engine := by
  cases h with
  | register hwrites hp =>
    obtain ⟨_, _, _, _, _, _, _, _, _, _, _, _, hwrite⟩ := hwrites.only s
    rw [hwrite]; rfl
  | tickProcessed | tickSkipped => exact absurd rfl htick
  | init => exact absurd rfl hinit
  | fclk hp =>
    obtain ⟨_, _, _, _, _, _, _, _, _, _, hunits⟩ := s.advanceStep.runUnits_unitsOnly
    rw [hunits]; rfl
  | begin hp =>
    obtain ⟨m, hm⟩ := s.beginWavetable_only
    obtain ⟨vs, hvs⟩ := s.beginWavetable.beginVoices_only
    rw [hvs, hm]; rfl
  | poke | peek | wtwrite | wtread | oread | mread => rfl

/-- The cells of the wavetable belong to PAT, WTWRITE, INIT and BEGIN (20_memory R60, R61). -/
theorem Performs.wavetable_eq (h : Performs s i t) (hpat : ∀ k d, i ≠ .regwPat k d) (hwrite : ∀ a x, i ≠ .wtwrite a x)
    (hinit : i ≠ .initEvent) (hbegin : i ≠ .beginEvent) : t.wavetable = s.wavetable := by
  cases h with
  | register hwrites hp => exact hwrites.wavetable_eq hpat s
  | wtwrite a x ha => exact absurd rfl (hwrite a x)
  | init => exact absurd rfl hinit
  | begin hp => exact absurd rfl hbegin
  | tickProcessed hprocessed =>
    obtain ⟨_, _, _, _, _, _, htick, -⟩ := s.emitTick_only
    rw [htick]
  | fclk hp =>
    obtain ⟨_, _, _, _, _, _, _, _, _, _, hunits⟩ := s.advanceStep.runUnits_unitsOnly
    rw [hunits]; rfl
  | poke | peek | wtread | oread | mread | tickSkipped => rfl

end

/-- Settles O15: the event a step performs keeps the configuration, and an idle step keeps all. -/
theorem configurationIsFixed : Obligations.ConfigurationIsFixed := by
  intro s t hstep
  obtain ⟨w, rest, -, hperforms⟩ | rfl := step_next_cases hstep
  · exact hperforms.cfg_eq
  · rfl

/-- Settles O50: the six registers are the engine's. -/
theorem writersOfTheEngine : Obligations.WritersOfTheEngine := by
  intro i s t htick hinit hexec
  simpa only [State.engine, Prod.mk.injEq] using (performs_of_exec hexec).engine_eq htick hinit

/-- Settles O51: a read depends on the cells and on the configuration alone. -/
theorem writersOfTheWavetable : Obligations.WritersOfTheWavetable := by
  intro i s t hpat hwrite hinit hbegin hexec a
  have hperforms := performs_of_exec hexec
  rw [State.readByte, State.readByte, hperforms.cfg_eq, hperforms.wavetable_eq hpat hwrite hinit hbegin]

end Sys2Proof.Machine
end

section
/-! PROOFS. The voice file across the events (10_state R22 to R24): which voices, and which fields of them, each event may
change. -/

namespace Sys2Proof.Machine

/-! ## Voice files, place by place -/

/-- The voice files have as many voices, and at each place the two voices are related. -/
def VoicesRelated (R : Nat → Voice → Voice → Prop) (xs ys : List Voice) : Prop :=
  ys.length = xs.length ∧ ∀ (v : Nat) (o : Voice), xs[v]? = some o → ∃ p, ys[v]? = some p ∧ R v o p

section
variable {R : Nat → Voice → Voice → Prop} {xs ys zs : List Voice}

theorem VoicesRelated.refl (h : ∀ v o, R v o o) (xs : List Voice) : VoicesRelated R xs xs :=
  ⟨rfl, fun v o ho => ⟨o, ho, h v o⟩⟩

theorem VoicesRelated.trans (h : ∀ {v o p q}, R v o p → R v p q → R v o q) (hxy : VoicesRelated R xs ys)
    (hyz : VoicesRelated R ys zs) : VoicesRelated R xs zs := by
  refine ⟨hyz.1.trans hxy.1, fun v o ho => ?_⟩
  obtain ⟨p, hp, hop⟩ := hxy.2 v o ho
  obtain ⟨q, hq, hpq⟩ := hyz.2 v p hp
  exact ⟨q, hq, h hop hpq⟩

/-- A change of one voice. -/
theorem VoicesRelated.modify (hrefl : ∀ v o, R v o o) {v : Nat} {f : Voice → Voice} (hf : ∀ o, R v o (f o))
    (xs : List Voice) : VoicesRelated R xs (xs.modify v f) := by
  refine ⟨List.length_modify .., fun u o ho => ?_⟩
  rw [List.getElem?_modify, ho]
  by_cases hvu : v = u
  · exact ⟨f o, by simp [hvu], hvu ▸ hf o⟩
  · exact ⟨o, by simp [hvu], hrefl u o⟩

/-- A field that related voices share is the same list of values. -/
theorem VoicesRelated.map_eq {α : Type} {field : Voice → α} (h : VoicesRelated R xs ys)
    (hfield : ∀ {v o p}, R v o p → field p = field o) : ys.map field = xs.map field := by
  apply List.ext_getElem?
  intro v
  rw [List.getElem?_map, List.getElem?_map]
  cases ho : xs[v]? with
  | some o =>
    obtain ⟨p, hp, hop⟩ := h.2 v o ho
    rw [hp]
    exact congrArg some (hfield hop)
  | none =>
    have hlength : ys.length ≤ v := h.1 ▸ List.getElem?_eq_none_iff.mp ho
    rw [List.getElem?_eq_none hlength]

end

/-! ## The voice that each operation edits -/

@[simp] theorem State.triggerReloads_voices (s : State) (c : Channel) : (s.triggerReloads c).voices = s.voices := by
  cases c <;> rfl

@[simp] theorem State.latchFhi_voices (s : State) (c : Channel) (d : Byte) : (s.latchFhi c d).voices = s.voices := by
  cases c <;> rfl

/-- An FHI write edits its channel's voice: phase, tune and gain where it triggers, the gain alone where it mutes. -/
theorem State.writeFhi_voices (s : State) (c : Channel) (d : Byte) :
    ∃ f, (s.writeFhi c d).voices = s.voices.modify c.voice f
      ∧ ∀ o : Voice, (f o).waveSelect = o.waveSelect ∧ (f o).waveMask = o.waveMask := by
  rw [State.writeFhi_eq]
  split
  · rw [State.trigger_eq_modifyVoice, State.triggerReloads_voices, State.modifyVoice_voices, State.latchFhi_voices]
    exact ⟨_, rfl, fun o => ⟨rfl, rfl⟩⟩
  · rw [State.chanAmpWrite_eq_modifyVoice, State.modifyVoice_voices, State.latchFhi_voices]
    exact ⟨_, rfl, fun o => ⟨rfl, rfl⟩⟩

/-- What an event that is none of a field's writers keeps of a voice, field by field (10_state R24). -/
structure WrittenBy (i : Instr) (o p : Voice) : Prop where
  phase : ¬ Spec.writesPhase i → p.phase = o.phase
  tune : ¬ Spec.writesTune i → p.tune = o.tune
  waveSelect : ¬ Spec.writesSelect i → p.waveSelect = o.waveSelect
  waveMask : ¬ Spec.writesMask i → p.waveMask = o.waveMask
  gain : ¬ Spec.writesGain i → p.gain = o.gain

theorem WrittenBy.refl (i : Instr) (o : Voice) : WrittenBy i o o :=
  ⟨fun _ => rfl, fun _ => rfl, fun _ => rfl, fun _ => rfl, fun _ => rfl⟩

/-- A REGW edits at most the voice of one channel, in the fields that the event writes. -/
theorem RegisterWrites.edits {i : Instr} {write : State → State} (h : RegisterWrites i write) (s : State) :
    ∃ v f, v < 3 ∧ (write s).voices = s.voices.modify v f ∧ ∀ o, WrittenBy i o (f o) := by
  have hnone {t : State} (ht : t.voices = s.voices) :
      ∃ v f, v < 3 ∧ t.voices = s.voices.modify v f ∧ ∀ o, WrittenBy i o (f o) :=
    ⟨0, id, by decide, by rw [ht, List.modify_id], WrittenBy.refl i⟩
  have hvoice (c : Channel) : c.voice < 3 := by cases c <;> decide
  cases h with
  | lenduty c d =>
    refine ⟨c.channel.voice, _, hvoice _, State.setLen_voices _ _ _, fun o => ?_⟩
    cases c <;> exact ⟨fun _ => rfl, fun _ => rfl, fun h => absurd trivial h, fun _ => rfl, fun _ => rfl⟩
  | fhi c d =>
    obtain ⟨f, hvoices, hkeeps⟩ := s.writeFhi_voices c d
    refine ⟨c.voice, f, hvoice c, hvoices, fun o => ?_⟩
    obtain ⟨hselect, hmask⟩ := hkeeps o
    cases c <;> exact ⟨fun h => absurd trivial h, fun h => absurd trivial h, fun _ => hselect, fun _ => hmask,
      fun h => absurd trivial h⟩
  | sweep0 d => exact hnone rfl
  | env c d => exact hnone (State.setEnv_voices _ _ _)
  | flo c d => exact hnone (State.setFnum_voices _ _ _)
  | len2 d => exact hnone rfl
  | lvl2 d => exact hnone rfl
  | pat k d => exact hnone rfl
  | ignored reg d => exact hnone rfl

theorem VoicePokes.writtenBy {i : Instr} {v : BitVec 4} {f : Voice → Voice} (h : VoicePokes i v f) (o : Voice) :
    WrittenBy i o (f o) := by
  cases h
  case phase => exact ⟨fun h => absurd trivial h, fun _ => rfl, fun _ => rfl, fun _ => rfl, fun _ => rfl⟩
  case tune => exact ⟨fun _ => rfl, fun h => absurd trivial h, fun _ => rfl, fun _ => rfl, fun _ => rfl⟩
  case sel => exact ⟨fun _ => rfl, fun _ => rfl, fun h => absurd trivial h, fun _ => rfl, fun _ => rfl⟩
  case mask => exact ⟨fun _ => rfl, fun _ => rfl, fun _ => rfl, fun h => absurd trivial h, fun _ => rfl⟩
  case ampl | ampr => exact ⟨fun _ => rfl, fun _ => rfl, fun _ => rfl, fun _ => rfl, fun h => absurd trivial h⟩

/-- What FCLK's units keep of voice v: they write the tune of voice 0 and the gains of voices 0, 1 and 2 alone. -/
structure KeptByUnits (v : Nat) (o p : Voice) : Prop where
  phase : p.phase = o.phase
  waveSelect : p.waveSelect = o.waveSelect
  waveMask : p.waveMask = o.waveMask
  tune : v ≠ 0 → p.tune = o.tune
  gain : 3 ≤ v → p.gain = o.gain

theorem KeptByUnits.refl (v : Nat) (o : Voice) : KeptByUnits v o o := ⟨rfl, rfl, rfl, fun _ => rfl, fun _ => rfl⟩

theorem KeptByUnits.trans {v : Nat} {o p q : Voice} (h : KeptByUnits v o p) (h' : KeptByUnits v p q) :
    KeptByUnits v o q :=
  ⟨h'.phase.trans h.phase, h'.waveSelect.trans h.waveSelect, h'.waveMask.trans h.waveMask,
    fun hv => (h'.tune hv).trans (h.tune hv), fun hv => (h'.gain hv).trans (h.gain hv)⟩

/-- An amplitude written to a channel's voice is within what the units write. -/
theorem KeptByUnits.withAmplitude (c : Channel) (mode : StereoMode) (x : Byte) (o : Voice) :
    KeptByUnits c.voice o (o.withAmplitude mode x) :=
  ⟨rfl, rfl, rfl, fun _ => rfl, fun hv => absurd hv (by cases c <;> decide)⟩

section
variable (s : State)

theorem State.lengthUnit_voices (c : Channel) : VoicesRelated KeptByUnits s.voices (s.lengthUnit c).voices := by
  rw [State.lengthUnit_eq, State.modifyVoice_voices, State.setLen_voices, LengthCounter.edit]
  refine VoicesRelated.modify KeptByUnits.refl (fun o => ?_) _
  split_ifs
  · exact KeptByUnits.withAmplitude c _ 0 o
  · exact KeptByUnits.refl _ o
  · exact KeptByUnits.refl _ o

theorem State.envelopeUnit_voices (c : SquareChannel) :
    VoicesRelated KeptByUnits s.voices (s.envelopeUnit c).voices := by
  rw [State.envelopeUnit_eq, State.modifyVoice_voices, State.setEnv_voices]
  refine VoicesRelated.modify KeptByUnits.refl (fun o => ?_) _
  rw [Envelope.edit]
  split_ifs
  · exact KeptByUnits.withAmplitude c.channel _ _ o
  · exact KeptByUnits.refl _ o

theorem State.sweepUnit_voices : VoicesRelated KeptByUnits s.voices s.sweepUnit.voices := by
  rw [State.sweepUnit_eq, State.modifyVoice_voices, Sweep.edit]
  refine VoicesRelated.modify KeptByUnits.refl (fun o => ?_) _
  split_ifs
  · exact KeptByUnits.withAmplitude .ch0 _ 0 o
  · exact ⟨rfl, rfl, rfl, fun hne => absurd rfl hne, fun _ => rfl⟩
  · exact KeptByUnits.refl _ o

theorem State.runUnits_voices : VoicesRelated KeptByUnits s.voices s.runUnits.voices :=
  State.runUnits_induction (R := fun s t => VoicesRelated KeptByUnits s.voices t.voices)
    (fun s => VoicesRelated.refl KeptByUnits.refl s.voices) (VoicesRelated.trans KeptByUnits.trans)
    State.lengthUnit_voices State.envelopeUnit_voices State.sweepUnit_voices s

end

/-! ## The statements -/

/-- Every event but INIT and BEGIN keeps the number of voices, and of each voice all that it is not named to write. -/
theorem Performs.writtenBy {i : Instr} {s t : State} (h : Performs s i t) (hinit : i ≠ .initEvent)
    (hbegin : i ≠ .beginEvent) : VoicesRelated (fun _ => WrittenBy i) s.voices t.voices := by
  have hrefl : ∀ (_ : Nat) (o : Voice), WrittenBy i o o := fun _ => WrittenBy.refl i
  have hkept : VoicesRelated (fun _ => WrittenBy i) s.voices s.voices := VoicesRelated.refl hrefl s.voices
  cases h with
  | register hwrites hp =>
    obtain ⟨v, f, -, hvoices, hf⟩ := hwrites.edits s
    rw [State.respond_voices, hvoices]
    exact VoicesRelated.modify hrefl hf s.voices
  | poke hpokes hv => exact VoicesRelated.modify hrefl hpokes.writtenBy s.voices
  | tickProcessed hprocessed =>
    obtain ⟨vs, l, r, n, ol, or, htick, hlength, hvoices⟩ := s.emitTick_only
    rw [htick]
    refine ⟨hlength, fun v o ho => ?_⟩
    obtain ⟨p, hp⟩ := hvoices v o ho
    exact ⟨_, hp, fun h => absurd trivial h, fun _ => rfl, fun _ => rfl, fun _ => rfl, fun _ => rfl⟩
  | fclk hp =>
    obtain ⟨hlength, hvoices⟩ := s.advanceStep.runUnits_voices
    refine ⟨hlength, fun v o ho => ?_⟩
    obtain ⟨p, hp, hkeeps⟩ := hvoices v o ho
    exact ⟨p, hp, fun _ => hkeeps.phase, fun h => absurd trivial h, fun _ => hkeeps.waveSelect,
      fun _ => hkeeps.waveMask, fun h => absurd trivial h⟩
  | init => exact absurd rfl hinit
  | begin hp => exact absurd rfl hbegin
  | peek | wtwrite | wtread | oread | mread | tickSkipped => exact hkept

/-- Settles O49: INIT and BEGIN are named as writers of every field; of every other event, field by field. -/
theorem writersOfEachVoiceField : Obligations.WritersOfEachVoiceField := by
  intro i s t hexec
  by_cases hreset : i = .initEvent ∨ i = .beginEvent
  case pos =>
    obtain rfl | rfl := hreset <;>
      exact ⟨fun h => absurd trivial h, fun h => absurd trivial h, fun h => absurd trivial h,
        fun h => absurd trivial h, fun h => absurd trivial h⟩
  case neg =>
    obtain ⟨hinit, hbegin⟩ := not_or.mp hreset
    have hvoices := (performs_of_exec hexec).writtenBy hinit hbegin
    exact ⟨fun h => hvoices.map_eq fun hp => hp.phase h, fun h => hvoices.map_eq fun hp => hp.tune h,
      fun h => hvoices.map_eq fun hp => hp.waveSelect h, fun h => hvoices.map_eq fun hp => hp.waveMask h,
      fun h => hvoices.map_eq fun hp => hp.gain h⟩

/-- Settles O27: the frame of the units' registers, and voice by voice what the units keep. -/
theorem fclkFrame : Obligations.FclkFrame := by
  intro s hp
  obtain ⟨_, _, _, _, _, _, _, _, _, _, hunits⟩ := s.advanceStep.runUnits_unitsOnly
  obtain ⟨hlength, hvoices⟩ := s.advanceStep.runUnits_voices
  refine ⟨_, exec_fclk_of_present hp, by rw [hunits]; rfl, fun a => by rw [hunits]; rfl, hlength, fun v o ho => ?_⟩
  obtain ⟨p, hp, hkeeps⟩ := hvoices v o ho
  exact ⟨p, hp, hkeeps.phase, hkeeps.waveSelect, hkeeps.waveMask, hkeeps.tune, hkeeps.gain⟩

theorem kind_voiceWord (kind voice : BitVec 4) (field : BitVec 3) (value : BitVec 16) :
    (voiceWord kind voice field value).extractLsb' 28 4 = kind :=
  (voice_fields kind voice 0#1 field 0x0 value).1

theorem kind_wavetableWord (kind : BitVec 4) (addr wdata : Byte) :
    (wavetableWord kind addr wdata).extractLsb' 28 4 = kind :=
  (byte_fields kind 0x0 addr 0x00 wdata).1

theorem kind_plainWord (kind : BitVec 4) : (plainWord kind).extractLsb' 28 4 = kind := kind_append kind 0

/-- The events whose words are REGWs are those that write registers (30_encoding R81, R82). -/
theorem registerWrites_of_isRegw {i : Instr} (h : Spec.isRegw i) : ∃ write, RegisterWrites i write := by
  have hother {kind : BitVec 4} (hword : (encode i).extractLsb' 28 4 = kind) (hkind : kind ≠ 0x0) :
      ∃ write, RegisterWrites i write := absurd (hword.symm.trans h) hkind
  cases i
  case regwSweep0 d => exact ⟨_, .sweep0 d⟩
  case regwLenduty0 d => exact ⟨_, .lenduty .sq0 d⟩
  case regwEnv0 d => exact ⟨_, .env .sq0 d⟩
  case regwFlo0 d => exact ⟨_, .flo .ch0 d⟩
  case regwFhi0 d => exact ⟨_, .fhi .ch0 d⟩
  case regwLenduty1 d => exact ⟨_, .lenduty .sq1 d⟩
  case regwEnv1 d => exact ⟨_, .env .sq1 d⟩
  case regwFlo1 d => exact ⟨_, .flo .ch1 d⟩
  case regwFhi1 d => exact ⟨_, .fhi .ch1 d⟩
  case regwLen2 d => exact ⟨_, .len2 d⟩
  case regwLvl2 d => exact ⟨_, .lvl2 d⟩
  case regwFlo2 d => exact ⟨_, .flo .ch2 d⟩
  case regwFhi2 d => exact ⟨_, .fhi .ch2 d⟩
  case regwPat k d => exact ⟨_, .pat k d⟩
  case regwIgnored reg d => exact ⟨_, .ignored reg d⟩
  case vpokePhase | vpokeTune | vpokeSel | vpokeMask | vpokeAmpl | vpokeAmpr | vpokeBadfield | vpeekPhase | vpeekTune
      | vpeekSel | vpeekMask | vpeekAmpl | vpeekAmpr | vpeekBadfield =>
    exact hother (kind_voiceWord _ _ _ _) (by decide)
  case wtwrite | wtread => exact hother (kind_wavetableWord _ _ _) (by decide)
  case tick | fclk | oread | mread | initEvent | beginEvent | reservedB | reservedC | reservedD | reservedE | reservedF =>
    exact hother (kind_plainWord _) (by decide)

/-- Settles O38: a REGW is a register write, whose frame leaves out the engine and whose voice is that of a channel. -/
theorem regwLeavesTheEngineAlone : Obligations.RegwLeavesTheEngineAlone := by
  intro i s hregw
  obtain ⟨write, hwrites⟩ := registerWrites_of_isRegw hregw
  rw [hwrites.exec_eq]
  refine ⟨fun habsent => if_neg (by rw [habsent]; decide), fun hp => ⟨_, registerWrite_of_present hp write, ?_⟩⟩
  obtain ⟨v, f, hv, hvoices, -⟩ := hwrites.edits s
  obtain ⟨_, _, _, _, _, _, _, _, _, _, _, _, honly⟩ := hwrites.only s
  have hupper (u : Nat) (hu : 3 ≤ u) : (write s).voices[u]? = s.voices[u]? := by
    rw [hvoices]
    exact List.getElem?_modify_ne f s.voices (by omega)
  rw [honly] at hupper ⊢
  exact ⟨rfl, rfl, rfl, rfl, rfl, rfl, rfl, hupper⟩

/-- Settles O37: IGNORED's register write changes nothing. -/
theorem ignoredWritesChangeNothing : Obligations.IgnoredWritesChangeNothing :=
  fun _ reg d hp => (Performs.register (.ignored reg d) hp).exec_eq

end Sys2Proof.Machine
end

section
/-! PROOFS. The order of the units of one step (43_frame_sequencer R193): two units write different registers, and their
edits of the voices commute. -/

namespace Sys2Proof.Machine

section
variable (s : State)

/-- Edits of two voices commute, and edits of one voice do where the edits themselves do. -/
theorem State.modifyVoice_comm_of {v u : Nat} {f g : Voice → Voice} (h : ∀ o, g (f o) = f (g o)) :
    (s.modifyVoice v f).modifyVoice u g = (s.modifyVoice u g).modifyVoice v f := by
  by_cases hvu : v = u
  · subst hvu
    rw [State.modifyVoice_modifyVoice, State.modifyVoice_modifyVoice]
    exact congrArg (s.modifyVoice v) (funext h)
  · exact s.modifyVoice_comm hvu f g

/-! ## Two length units -/

theorem Channel.voice_ne {c d : Channel} (h : c ≠ d) : c.voice ≠ d.voice := by
  cases c <;> cases d <;> trivial

theorem State.len_setLen_of_ne {c d : Channel} (h : c ≠ d) (l : LengthCounter) : (s.setLen c l).len d = s.len d := by
  cases c <;> cases d <;> trivial

theorem State.setLen_comm {c d : Channel} (h : c ≠ d) (l m : LengthCounter) :
    (s.setLen c l).setLen d m = (s.setLen d m).setLen c l := by
  cases c <;> cases d <;> trivial

@[simp] theorem State.len_modifyVoice (v : Nat) (f : Voice → Voice) (c : Channel) :
    (s.modifyVoice v f).len c = s.len c := by
  cases c <;> rfl

theorem State.setLen_modifyVoice (v : Nat) (f : Voice → Voice) (c : Channel) (l : LengthCounter) :
    (s.modifyVoice v f).setLen c l = (s.setLen c l).modifyVoice v f := by
  cases c <;> rfl

/-- Two length units: both counters, then both edits, each from the state before. -/
theorem State.lengthUnit_lengthUnit {c d : Channel} (h : c ≠ d) :
    (s.lengthUnit c).lengthUnit d =
      (((s.setLen c (s.len c).counted).setLen d (s.len d).counted).modifyVoice c.voice
        ((s.len c).edit s.cfg.stereoMode)).modifyVoice d.voice ((s.len d).edit s.cfg.stereoMode) := by
  rw [State.lengthUnit_eq, State.lengthUnit_cfg, State.lengthUnit_eq, State.len_modifyVoice, s.len_setLen_of_ne h,
    State.setLen_modifyVoice]

theorem State.lengthUnit_comm (c d : Channel) : (s.lengthUnit c).lengthUnit d = (s.lengthUnit d).lengthUnit c := by
  by_cases h : c = d
  case pos => rw [h]
  case neg =>
    rw [s.lengthUnit_lengthUnit h, s.lengthUnit_lengthUnit (Ne.symm h), s.setLen_comm h,
      State.modifyVoice_comm _ (Channel.voice_ne h)]

/-! ## A length unit and the sweep unit -/

/-- The edits commute: silence is the same before and after silence, and it keeps the tune. -/
theorem LengthCounter.edit_comm_sweep (l : LengthCounter) (w : Sweep) (cfg : Config) (o : Voice) :
    w.edit cfg (l.edit cfg.stereoMode o) = l.edit cfg.stereoMode (w.edit cfg o) := by
  unfold Sweep.edit LengthCounter.edit
  split_ifs <;> rfl

/-- The registers that a length unit and the sweep unit leave. -/
def State.lengthSweepRegisters (c : Channel) : State :=
  ({ s with sweep := s.sweep.after, fnum0 := s.sweep.fnum s.fnum0 } : State).setLen c (s.len c).counted

theorem State.sweepUnit_lengthUnit (c : Channel) :
    (s.lengthUnit c).sweepUnit =
      ((s.lengthSweepRegisters c).modifyVoice c.voice ((s.len c).edit s.cfg.stereoMode)).modifyVoice 0
        (s.sweep.edit s.cfg) := by
  rw [State.sweepUnit_eq, State.lengthUnit_eq]
  cases c <;> rfl

theorem State.lengthUnit_sweepUnit (c : Channel) :
    s.sweepUnit.lengthUnit c =
      ((s.lengthSweepRegisters c).modifyVoice 0 (s.sweep.edit s.cfg)).modifyVoice c.voice
        ((s.len c).edit s.cfg.stereoMode) := by
  rw [State.lengthUnit_eq, State.sweepUnit_eq]
  cases c <;> rfl

theorem State.lengthUnit_sweepUnit_comm (c : Channel) : (s.lengthUnit c).sweepUnit = s.sweepUnit.lengthUnit c := by
  rw [s.sweepUnit_lengthUnit, s.lengthUnit_sweepUnit]
  exact State.modifyVoice_comm_of _ (LengthCounter.edit_comm_sweep (s.len c) s.sweep s.cfg)

/-! ## The two envelope units -/

/-- The registers that the two envelope units leave. -/
def State.envelopeRegisters : State := { s with env0 := s.env0.counted, env1 := s.env1.counted }

theorem State.envelopeUnit_zero_one :
    (s.envelopeUnit .sq0).envelopeUnit .sq1 =
      (s.envelopeRegisters.modifyVoice 0 (s.env0.edit s.cfg.stereoMode)).modifyVoice 1 (s.env1.edit s.cfg.stereoMode) := by
  rw [State.envelopeUnit_eq, State.envelopeUnit_eq]
  rfl

theorem State.envelopeUnit_one_zero :
    (s.envelopeUnit .sq1).envelopeUnit .sq0 =
      (s.envelopeRegisters.modifyVoice 1 (s.env1.edit s.cfg.stereoMode)).modifyVoice 0 (s.env0.edit s.cfg.stereoMode) := by
  rw [State.envelopeUnit_eq, State.envelopeUnit_eq]
  rfl

theorem State.envelopeUnit_comm :
    (s.envelopeUnit .sq0).envelopeUnit .sq1 = (s.envelopeUnit .sq1).envelopeUnit .sq0 := by
  rw [s.envelopeUnit_zero_one, s.envelopeUnit_one_zero, State.modifyVoice_comm _ (by decide)]

end

/-- Settles O25: each pair of units of one step, in any state. -/
theorem unitsOfOneStepCommute : Obligations.UnitsOfOneStepCommute :=
  fun s => ⟨s.lengthUnit_comm, s.lengthUnit_sweepUnit_comm, s.envelopeUnit_comm⟩

end Sys2Proof.Machine
end

section
/-! PROOFS. The port and the events (20_memory R67): no event reads the events still to come or the last return, so each
passes through a change of the two. -/

namespace Sys2Proof.Machine

/-- The state with other events to come and another last return. -/
def State.withPort (s : State) (ws : List EventWord) (r : Response) : State := { s with pending := ws, response := r }

section
variable (s : State) (ws : List EventWord) (r : Response)

/-! ## The operations -/

theorem State.advanceStep_withPort : (s.withPort ws r).advanceStep = s.advanceStep.withPort ws r := rfl

/-- A choice that does not look at the port. -/
theorem State.ite_withPort (p : Prop) [Decidable p] (t u : State) :
    (if p then t.withPort ws r else u.withPort ws r) = (if p then t else u).withPort ws r :=
  (apply_ite (fun t : State => t.withPort ws r) p t u).symm

theorem State.chanAmpWrite_withPort (c : Channel) (x : Byte) :
    (s.withPort ws r).chanAmpWrite c x = (s.chanAmpWrite c x).withPort ws r := by
  rw [State.chanAmpWrite_eq_modifyVoice, State.chanAmpWrite_eq_modifyVoice]
  rfl

theorem State.trigger_withPort (c : Channel) : (s.withPort ws r).trigger c = (s.trigger c).withPort ws r := by
  rw [State.trigger_eq_modifyVoice, State.trigger_eq_modifyVoice]
  cases c <;> rfl

theorem State.latchFhi_withPort (c : Channel) (d : Byte) :
    (s.withPort ws r).latchFhi c d = (s.latchFhi c d).withPort ws r := by
  cases c <;> rfl

theorem State.writeFhi_withPort (c : Channel) (d : Byte) :
    (s.withPort ws r).writeFhi c d = (s.writeFhi c d).withPort ws r := by
  rw [State.writeFhi_eq, State.writeFhi_eq, State.latchFhi_withPort, State.trigger_withPort, State.chanAmpWrite_withPort]
  split <;> rfl

theorem RegisterWrites.withPort {i : Instr} {write : State → State} (h : RegisterWrites i write) :
    write (s.withPort ws r) = (write s).withPort ws r := by
  cases h with
  | fhi c d => exact s.writeFhi_withPort ws r c d
  | lenduty c d => cases c <;> rfl
  | env c d => cases c <;> rfl
  | flo c d => cases c <;> rfl
  | sweep0 | len2 | lvl2 | pat | ignored => rfl

theorem State.lengthUnit_withPort (c : Channel) : (s.withPort ws r).lengthUnit c = (s.lengthUnit c).withPort ws r := by
  rw [State.lengthUnit_eq, State.lengthUnit_eq]
  cases c <;> rfl

theorem State.envelopeUnit_withPort (c : SquareChannel) :
    (s.withPort ws r).envelopeUnit c = (s.envelopeUnit c).withPort ws r := by
  rw [State.envelopeUnit_eq, State.envelopeUnit_eq]
  cases c <;> rfl

theorem State.sweepUnit_withPort : (s.withPort ws r).sweepUnit = s.sweepUnit.withPort ws r := by
  rw [State.sweepUnit_eq, State.sweepUnit_eq]
  rfl

theorem State.lengthUnits_withPort : (s.withPort ws r).lengthUnits = s.lengthUnits.withPort ws r := by
  simp only [State.lengthUnits, State.lengthUnit_withPort]

theorem State.envelopeUnits_withPort : (s.withPort ws r).envelopeUnits = s.envelopeUnits.withPort ws r := by
  simp only [State.envelopeUnits, State.envelopeUnit_withPort]

theorem State.runUnits_withPort : (s.withPort ws r).runUnits = s.runUnits.withPort ws r := by
  have hstep : (s.withPort ws r).frameStep = s.frameStep := rfl
  simp only [State.runUnits, hstep, State.lengthUnits_withPort, State.sweepUnit_withPort, State.envelopeUnits_withPort,
    State.ite_withPort]

theorem State.mix_withPort (v : Nat) (x : Byte) : (s.withPort ws r).mix v x = (s.mix v x).withPort ws r := by
  have hmode : (s.withPort ws r).cfg.stereoMode = s.cfg.stereoMode := rfl
  unfold State.mix
  rw [hmode]
  cases s.cfg.stereoMode
  case disabled => rfl
  case independent => rfl
  case fixedAssignment =>
    exact State.ite_withPort ws r (v % 2 = 0) (s.addLeft (product x (s.voice v).gain.left))
      (s.addRight (product x (s.voice v).gain.left))

theorem State.advance_withPort (v : Nat) : (s.withPort ws r).advance v = (s.advance v).withPort ws r :=
  State.mix_withPort (s.setPhase v ((s.voice v).phase + (s.voice v).tune)) ws r v _

theorem State.advanceFrom_withPort (first k : Nat) :
    (s.withPort ws r).advanceFrom first k = (s.advanceFrom first k).withPort ws r := by
  induction k generalizing s first with
  | zero => rfl
  | succ k ih =>
    simp only [State.advanceFrom]
    rw [State.advance_withPort, ih]

theorem State.afterAdvances_withPort : (s.withPort ws r).afterAdvances = s.afterAdvances.withPort ws r :=
  congrArg (fun t : State => { t with rr := s.rr + voicesPerTick s.cfg.stereoMode })
    (s.advanceFrom_withPort ws r s.rr (voicesPerTick s.cfg.stereoMode))

theorem State.processTick_withPort : (s.withPort ws r).processTick = s.processTick.withPort ws r := by
  rw [State.processTick_eq, State.processTick_eq, State.afterAdvances_withPort]
  exact State.ite_withPort ws r (s.rr + voicesPerTick s.cfg.stereoMode = s.cfg.voiceCount) s.afterAdvances.completeRound
    s.afterAdvances

theorem State.fillBytes_withPort (base : Nat) (sample : Nat → Byte) (n : Nat) :
    (s.withPort ws r).fillBytes base sample n = (s.fillBytes base sample n).withPort ws r := rfl

theorem State.beginWavetable_withPort : (s.withPort ws r).beginWavetable = s.beginWavetable.withPort ws r := by
  simp only [State.beginWavetable, State.buildDuty, State.fillBytes_withPort]

theorem State.beginVoice_withPort (c : Channel) : (s.withPort ws r).beginVoice c = (s.beginVoice c).withPort ws r := by
  rw [State.beginVoice, State.beginVoice, ← State.chanAmpWrite_withPort]
  rfl

theorem State.beginVoices_withPort : (s.withPort ws r).beginVoices = s.beginVoices.withPort ws r := by
  simp only [State.beginVoices, State.beginVoice_withPort]

/-! ## The events -/

variable {s}

/-- Behind another port an event does the same; its own return takes the place of the last one. -/
theorem Performs.withPort {i : Instr} {t : State} (h : Performs s i t) :
    Performs (s.withPort ws r) i { t with pending := ws } := by
  cases h with
  | register hwrites hp =>
    have hperforms := Performs.register (s := s.withPort ws r) hwrites hp
    rwa [hwrites.withPort] at hperforms
  | poke hpokes hv => exact .poke (s := s.withPort ws r) hpokes hv
  | peek hpeeks hv => exact .peek (s := s.withPort ws r) hpeeks hv
  | wtwrite a x ha => exact .wtwrite (s := s.withPort ws r) a x ha
  | wtread a ha => exact .wtread (s := s.withPort ws r) a ha
  | oread => exact .oread
  | mread => exact .mread
  | tickProcessed hprocessed =>
    have hperforms := Performs.tickProcessed (s := s.withPort ws r) hprocessed
    rwa [State.emitTick, State.processTick_withPort] at hperforms
  | tickSkipped hhalf hdiv => exact .tickSkipped (s := s.withPort ws r) hhalf hdiv
  | fclk hp =>
    have hperforms := Performs.fclk (s := s.withPort ws r) hp
    rwa [State.advanceStep_withPort, State.runUnits_withPort] at hperforms
  | init => exact .init
  | begin hp =>
    have hperforms := Performs.begin (s := s.withPort ws r) hp
    rwa [State.beginWavetable_withPort, State.beginVoices_withPort] at hperforms

end

/-- Settles O11: behind another port an event does the same, and behind its own it leaves the events still to come. -/
theorem eventsSeeNothingOfThePort : Obligations.EventsSeeNothingOfThePort := by
  intro i s t ws r hexec
  have hperforms := performs_of_exec hexec
  have hsame : exec i s = .next { t with pending := s.pending } :=
    (hperforms.withPort s.pending s.response).exec_eq
  have ht : t = { t with pending := s.pending } := Host.Outcome.next.inj (hexec.symm.trans hsame)
  exact ⟨by rw [ht], (hperforms.withPort ws r).exec_eq⟩

end Sys2Proof.Machine
end

section
/-! PROOFS. Events one after another (20_memory R67): a poke and its peek (44_host_ports R220 to R227), and the
pseudo-instructions `note` and `noteoff` performed (30_encoding R95, 42_register_interface). -/

namespace Sys2Proof.Machine

section
variable {s t u : State} {i j : Instr}

theorem perform_cons (is : List Instr) (h : exec i s = .next t) : perform (i :: is) s = perform is t := by
  rw [perform, h]

theorem perform_one (h : exec i s = .next t) : perform [i] s = .next t := perform_cons [] h

theorem perform_two (hi : exec i s = .next t) (hj : exec j t = .next u) : perform [i, j] s = .next u :=
  (perform_cons [j] hi).trans (perform_one hj)

end

/-! ## A poke and its peek -/

section
variable {s : State} {v : BitVec 4} {poke peek : Instr} {f : Voice → Voice} {field : Voice → BitVec 16}

/-- A peek after a poke reads the voice as poked. -/
theorem State.Inv.peek_after_poke (h : s.Inv) (hv : v.toNat < s.cfg.voiceCount) (hpokes : VoicePokes poke v f)
    (hpeeks : VoicePeeks peek v field) {y : BitVec 16} (hy : field (f (s.voice v.toNat)) = y) :
    ∃ t, perform [poke, peek] s = .next t ∧ t.response = .field y := by
  have hvoice : ((s.modifyVoice v.toNat f).respond .nothing).voice v.toNat = f (s.voice v.toNat) :=
    (s.voice_modifyVoice v.toNat v.toNat f).trans (if_pos ⟨rfl, h.voiceFile ▸ hv⟩)
  have hpeek := (Performs.peek (s := (s.modifyVoice v.toNat f).respond .nothing) hpeeks hv).exec_eq
  refine ⟨_, perform_two (Performs.poke hpokes hv).exec_eq hpeek, ?_⟩
  rw [State.respond_response, hvoice, hy]

@[simp] theorem Gain.left_setLeft (g : Gain) (x : Byte) : (g.setLeft x).left = x := by
  cases g <;> rfl

@[simp] theorem Gain.right_setRight (g : Gain) (x : Byte) : (g.setRight x).right = x := by
  cases g <;> rfl

/-- The other name of a gain: its own register under Independent, the one amplitude otherwise (10_state R23). -/
theorem Gain.right_setLeft {g : Gain} {mode : StereoMode} (h : g.fits mode) (x : Byte) :
    (g.setLeft x).right = if mode = .independent then g.right else x := by
  rw [Gain.setLeft_of_fits h]
  split_ifs <;> rfl

theorem Gain.left_setRight {g : Gain} {mode : StereoMode} (h : g.fits mode) (x : Byte) :
    (g.setRight x).left = if mode = .independent then g.left else x := by
  rw [Gain.setRight_of_fits h]
  split_ifs <;> rfl

end

theorem setWidth_eq_wide (b : Byte) : b.setWidth 16 = BitVec.ofNat 16 b.toNat := (BitVec.ofNat_toNat 16 b).symm

/-- Settles O43: each pair of a poke and a peek by the field that the peek reads of the voice as poked; a gain's two names
by how the stereo mode stores it. -/
theorem pokedFieldsReadBack : Obligations.PokedFieldsReadBack := by
  intro s v x b h hv returns wide
  have hwide {y : Byte} (hy : y = b) : y.setWidth 16 = wide := hy ▸ setWidth_eq_wide b
  have hfits : (s.voice v.toNat).gain.fits s.cfg.stereoMode := h.gains _ (State.voice_mem (h.voiceFile ▸ hv))
  have hright := Gain.right_setLeft hfits b
  have hleft := Gain.left_setRight hfits b
  refine ⟨h.peek_after_poke hv (.phase v x) (.phase v) rfl, h.peek_after_poke hv (.tune v x) (.tune v) rfl,
    h.peek_after_poke hv (.sel v b) (.sel v) (hwide rfl), h.peek_after_poke hv (.mask v b) (.mask v) (hwide rfl),
    h.peek_after_poke hv (.ampl v b) (.ampl v) (hwide (Gain.left_setLeft _ b)),
    h.peek_after_poke hv (.ampr v b) (.ampr v) (hwide (Gain.right_setRight _ b)), fun hshared => ?shared,
    fun hindependent => ?independent⟩
  case shared =>
    rw [if_neg hshared] at hright hleft
    exact ⟨h.peek_after_poke hv (.ampl v b) (.ampr v) (hwide hright),
      h.peek_after_poke hv (.ampr v b) (.ampl v) (hwide hleft)⟩
  case independent =>
    rw [if_pos hindependent] at hright hleft
    exact ⟨h.peek_after_poke hv (.ampl v b) (.ampr v) (hright ▸ setWidth_eq_wide _),
      h.peek_after_poke hv (.ampr v b) (.ampl v) (hleft ▸ setWidth_eq_wide _)⟩

/-! ## The words of the frequency writes -/

/-- The assembler's REGW line decodes by the register and the low byte of its data (30_encoding R82, R94). -/
theorem decode_lineRegw (r d : Nat) : decode (lineRegw r d) = decodeRegw (BitVec.ofNat 8 r) (BitVec.ofNat 8 d) := by
  have hbytes : BitVec.ofNat 16 d = BitVec.ofNat 8 (d / 256) ++ BitVec.ofNat 8 d := by
    apply BitVec.eq_of_toNat_eq
    rw [BitVec.toNat_append, ← Nat.shiftLeft_add_eq_or_of_lt (BitVec.isLt _), Nat.shiftLeft_eq]
    simp only [BitVec.toNat_ofNat]
    omega
  rw [lineRegw, hbytes]
  exact (congrArg decode (append_two_bytes _ _ _).symm).trans (decode_regw _ _ _ _)

theorem decodeRegw_floRegister (c : Channel) (d : Byte) :
    decodeRegw (BitVec.ofNat 8 (floRegister c)) d = floEvent c d := by
  cases c <;> rfl

theorem decodeRegw_fhiRegister (c : Channel) (d : Byte) :
    decodeRegw (BitVec.ofNat 8 (fhiRegister c)) d = fhiEvent c d := by
  cases c <;> rfl

section
variable (cfg : Config) (high : Channel → BitVec 3) (c : Channel)

/-- The events of `note C, N`: the low byte, then the high bits with the trigger. -/
theorem decode_note (n : Nat) :
    (assemble cfg high (.note c n)).map decode =
      [floEvent c (BitVec.ofNat 8 (n % 256)), fhiEvent c (BitVec.ofNat 8 (0x80 + n / 256 % 8))] := by
  simp only [assemble, List.map_cons, List.map_nil, decode_lineRegw, decodeRegw_floRegister, decodeRegw_fhiRegister]

/-- The event of `noteoff C`: the known high bits, without the trigger. -/
theorem decode_noteoff :
    (assemble cfg high (.noteoff c)).map decode = [fhiEvent c (BitVec.ofNat 8 (high c).toNat)] := by
  simp only [assemble, List.map_cons, List.map_nil, decode_lineRegw, decodeRegw_fhiRegister]

end

/-! ## The frequency fields -/

/-- The two bytes of `note` put N together. -/
theorem withHigh_withLow (f n : BitVec 11) :
    Spec.withHigh (Spec.withLow f (BitVec.ofNat 8 (n.toNat % 256))) (BitVec.ofNat 8 (0x80 + n.toNat / 256 % 8)) = n := by
  have hn := n.isLt
  have hf := f.isLt
  apply BitVec.eq_of_toNat_eq
  simp only [Spec.withHigh, Spec.withLow, BitVec.toNat_ofNat]
  omega

/-- The high bits that a field has leave it as it is. -/
theorem withHigh_self (f : BitVec 11) :
    Spec.withHigh f (BitVec.ofNat 8 (BitVec.ofNat 3 (f.toNat / 256)).toNat) = f := by
  have hf := f.isLt
  apply BitVec.eq_of_toNat_eq
  simp only [Spec.withHigh, BitVec.toNat_ofNat]
  omega

/-- `note`'s high byte has the trigger bit and not the length enable (30 R89, R95). -/
theorem noteHigh_bits (n : Nat) :
    (BitVec.ofNat 8 (0x80 + n / 256 % 8)).getLsbD 7 = true ∧ (BitVec.ofNat 8 (0x80 + n / 256 % 8)).getLsbD 6 = false := by
  have hlt : n / 256 % 8 < 8 := Nat.mod_lt _ (by decide)
  interval_cases n / 256 % 8 <;> exact ⟨rfl, rfl⟩

/-- `noteoff`'s byte has no trigger bit. -/
theorem noteoffByte_bit : ∀ high : BitVec 3, (BitVec.ofNat 8 high.toNat).getLsbD 7 = false := by decide

/-! ## What an FHI write leaves in its channel -/

section
variable {s t : State} {c : Channel}

/-- The interpreter's voices exist (00_scope R9). -/
theorem State.Inv.channel_exists (h : s.Inv) (hp : Spec.present s) (c : Channel) : c.voice < s.voices.length := by
  obtain ⟨-, hfour⟩ := h.present_fits hp
  rw [h.voiceFile]
  cases c <;> simp only [Channel.voice] <;> omega

/-- A voice of a state whose voice file is another's with that voice changed. -/
theorem State.voice_of_mapVoice {v : Nat} {f : Voice → Voice} (hv : v < s.voices.length)
    (hvoices : t.voices = Spec.mapVoice s v f) : t.voice v = f (s.voice v) := by
  apply State.voice_of_getElem?
  rw [hvoices, Spec.mapVoice, List.getElem?_mapIdx, State.getElem?_voice hv]
  exact congrArg some (if_pos rfl)

/-- An FLO write: the field's low byte is latched, in a constructed state with the same configuration and volume. -/
theorem State.Inv.flo_latches (h : s.Inv) (hp : Spec.present s) (c : Channel) (d : Byte) :
    ∃ t, exec (floEvent c d) s = .next t ∧ t.Inv ∧ t.cfg = s.cfg ∧ t.fnum c = Spec.withLow (s.fnum c) d
      ∧ t.startingVolume c = s.startingVolume c := by
  have hexec := exec_floEvent hp c d
  refine ⟨_, hexec, inv_performs h (performs_of_exec hexec), (performs_of_exec hexec).cfg_eq, ?fnum, ?volume⟩
  case fnum =>
    rw [State.writeFlo_eq]
    cases c <;> rfl
  case volume => cases c <;> rfl

/-- An FHI write with the trigger bit: the channel plays the field it has latched, from phase 0. -/
theorem State.Inv.fhi_triggers (h : s.Inv) (hp : Spec.present s) (c : Channel) {d : Byte} (hd : d.getLsbD 7 = true) :
    ∃ t, exec (fhiEvent c d) s = .next t ∧ t.fnum c = Spec.withHigh (s.fnum c) d ∧ (t.len c).enabled = d.getLsbD 6
      ∧ t.voice c.voice = { s.voice c.voice with
          phase := 0, tune := tuneOf s.cfg (Spec.withHigh (s.fnum c) d),
          gain := Spec.bothGains s.cfg.stereoMode (s.startingVolume c) } := by
  refine ⟨_, exec_fhiEvent_of_trigger h hp c hd, ?fnum, ?len, ?voice⟩
  case voice =>
    exact State.voice_of_mapVoice (f := fun o => { o with
      phase := 0, tune := tuneOf s.cfg (Spec.withHigh (s.fnum c) d),
      gain := Spec.bothGains s.cfg.stereoMode (s.startingVolume c) }) (h.channel_exists hp c)
      (State.triggerReloads_voices _ c)
  all_goals cases c <;> rfl

/-- An FHI write without the trigger bit: the channel is silent, its tune kept. -/
theorem State.Inv.fhi_mutes (h : s.Inv) (hp : Spec.present s) (c : Channel) {d : Byte} (hd : d.getLsbD 7 = false) :
    ∃ t, exec (fhiEvent c d) s = .next t ∧ t.fnum c = Spec.withHigh (s.fnum c) d
      ∧ t.voice c.voice = { s.voice c.voice with gain := Spec.bothGains s.cfg.stereoMode 0 } := by
  refine ⟨_, exec_fhiEvent_of_mute h hp c hd, ?fnum, ?voice⟩
  case voice =>
    exact State.voice_of_mapVoice (f := fun o => { o with gain := Spec.bothGains s.cfg.stereoMode 0 })
      (h.channel_exists hp c) rfl
  case fnum => cases c <;> rfl

end

/-- Settles O54: the low byte's write changes the field alone, and the high bits' write then triggers the channel with all
of N latched. -/
theorem notePlaysItsFrequency : Obligations.NotePlaysItsFrequency := by
  intro s high c n h hp
  obtain ⟨htrigger, hdisable⟩ := noteHigh_bits n.toNat
  obtain ⟨low, hlow, hinv, hcfg, hfield, hvolume⟩ := h.flo_latches hp c (BitVec.ofNat 8 (n.toNat % 256))
  have hpresent : Spec.present low := by rw [Spec.present, hcfg]; exact hp
  obtain ⟨t, ht, hfnum, hlength, hvoice⟩ := hinv.fhi_triggers hpresent c htrigger
  rw [hfield, withHigh_withLow] at hfnum hvoice
  refine ⟨t, decode_note s.cfg high c n.toNat ▸ perform_two hlow ht, hfnum, by rw [hvoice], by rw [hvoice, hcfg],
    by rw [hvoice, hcfg, hvolume], hlength.trans hdisable⟩

/-- Settles O55: without the trigger bit the high bits' write mutes the channel, and it latches the bits already there. -/
theorem noteoffSilencesAndKeepsTheFrequency : Obligations.NoteoffSilencesAndKeepsTheFrequency := by
  intro s high c h hp hhigh
  obtain ⟨t, hexec, hfnum, hvoice⟩ := h.fhi_mutes hp c (noteoffByte_bit (high c))
  refine ⟨t, decode_noteoff s.cfg high c ▸ perform_one hexec, ?_, by rw [hvoice], by rw [hvoice]⟩
  rw [hfnum, hhigh, withHigh_self]

end Sys2Proof.Machine
end

section
/-! PROOFS. A whole round (40_synthesis R112 to R121): the TICKs of a round, from the states inside it to its end. -/

namespace Sys2Proof.Machine

theorem total_add (share : Nat → Nat) (n k : Nat) :
    Spec.total share 0 (n + k) = Spec.total share 0 n + Spec.total share n k := by
  simp only [Spec.total, Nat.zero_add]
  exact Finset.sum_range_add share n k

/-- The sums depend on the shares of the voices that are added alone. -/
theorem total_congr {share share' : Nat → Nat} {n k : Nat} (h : ∀ v, n ≤ v → share v = share' v) :
    Spec.total share n k = Spec.total share' n k :=
  Finset.sum_congr rfl fun j _ => h (n + j) (Nat.le_add_right n j)

/-- The state of a round in which the voices below `n` have advanced, from the state at its start; `r` is what the last
event returned. -/
def State.inRound (s : State) (n : Nat) (r : Response) : State :=
  { s with
    voices := Spec.advanced s 0 n, leftSum := BitVec.ofNat 20 (Spec.total (Spec.leftShare s) 0 n),
    rightSum := BitVec.ofNat 20 (Spec.total (Spec.rightShare s) 0 n), rr := n, response := r }

/-- The state at the end of the round. -/
def State.afterRound (s : State) : State :=
  let left := Spec.outputByte (Spec.total (Spec.leftShare s) 0 s.cfg.voiceCount)
  let right :=
    if s.cfg.stereoMode = .disabled then s.outRight
    else Spec.outputByte (Spec.total (Spec.rightShare s) 0 s.cfg.voiceCount)
  { s with
    voices := Spec.advanced s 0 s.cfg.voiceCount, outLeft := left, outRight := right,
    response := Spec.outputs s.cfg.stereoMode left right }

section
variable (s : State) (n : Nat) (r : Response)

/-- A voice that has not advanced is as at the start. -/
theorem State.voice_inRound {v : Nat} (hv : n ≤ v) : (s.inRound n r).voice v = s.voice v := by
  simp only [State.voice, State.inRound, Spec.advanced, List.getD_eq_getElem?_getD, List.getElem?_mapIdx]
  cases s.voices[v]? with
  | none => rfl
  | some o => simp [Nat.not_lt.mpr hv]

theorem State.shares_inRound {v : Nat} (hv : n ≤ v) :
    Spec.leftShare (s.inRound n r) v = Spec.leftShare s v ∧ Spec.rightShare (s.inRound n r) v = Spec.rightShare s v := by
  have hvoice := s.voice_inRound n r hv
  have hsample : Spec.nextSample (s.inRound n r) v = Spec.nextSample s v := by
    rw [Spec.nextSample, hvoice]
    rfl
  constructor
  · rw [Spec.leftShare, hsample, hvoice]
    rfl
  · rw [Spec.rightShare, hsample, hvoice]
    rfl

/-- The voices below n, then those from n on. -/
theorem State.advanced_inRound :
    Spec.advanced (s.inRound n r) (s.inRound n r).rr (Spec.pair (s.inRound n r)) =
      Spec.advanced s 0 (n + Spec.pair s) := by
  change Spec.advanced (s.inRound n r) n (Spec.pair s) = _
  simp only [Spec.advanced, State.inRound, List.mapIdx_mapIdx]
  refine congrArg (s.voices.mapIdx ·) (funext₂ fun v o => ?_)
  by_cases hbelow : v < n
  · simp [hbelow, Nat.lt_add_right (Spec.pair s) hbelow, Nat.not_le.mpr hbelow]
  · simp [hbelow, Nat.not_lt.mp hbelow]

end

section
variable {s : State} {n : Nat} {r : Response}

/-- At most ten shares fit in the 20 bits of a sum (40 R124). -/
theorem total_toNat {share : Nat → Nat} (hshare : ∀ v, share v ≤ 65025) (hn : n ≤ 10) :
    (BitVec.ofNat 20 (Spec.total share 0 n)).toNat = Spec.total share 0 n := by
  have htotal : Spec.total share 0 n ≤ n * 65025 := by
    simpa [Spec.total] using Finset.sum_le_card_nsmul (Finset.range n) (fun j => share (0 + j)) 65025 fun j _ => hshare _
  rw [BitVec.toNat_ofNat]
  exact Nat.mod_eq_of_lt (by omega)

theorem leftShare_le (s : State) (v : Nat) : Spec.leftShare s v ≤ 65025 := s.leftAdd_toNat v ▸ leftAdd_le s v

theorem rightShare_le (s : State) (v : Nat) : Spec.rightShare s v ≤ 65025 := s.rightAdd_toNat v ▸ rightAdd_le s v

/-- The sums of a round after the next TICK: the shares of all voices up to then. -/
theorem State.mixed_inRound (hn : n ≤ 10) :
    (s.inRound n r).mixedLeft = Spec.total (Spec.leftShare s) 0 (n + Spec.pair s)
      ∧ (s.inRound n r).mixedRight = Spec.total (Spec.rightShare s) 0 (n + Spec.pair s) := by
  constructor
  · rw [total_add, ← total_toNat (leftShare_le s) hn, ← total_congr fun v hv => (s.shares_inRound n r hv).1]
    rfl
  · rw [total_add, ← total_toNat (rightShare_le s) hn, ← total_congr fun v hv => (s.shares_inRound n r hv).2]
    rfl

/-- A TICK inside the round. -/
theorem State.emitTick_inRound (h : (s.inRound n r).Inv) (hlt : n + Spec.pair s < s.cfg.voiceCount) :
    (s.inRound n r).emitTick =
      s.inRound (n + Spec.pair s) (Spec.outputs s.cfg.stereoMode s.outLeft s.outRight) := by
  have hten : s.cfg.voiceCount ≤ 10 := h.voices_le_ten
  obtain ⟨hleft, hright⟩ := State.mixed_inRound (s := s) (r := r) (show n ≤ 10 by omega)
  rw [h.emitTick_inside hlt, hleft, hright, s.advanced_inRound]
  rfl

/-- The TICK that completes the round, from a start with the sums and `rr` at 0. -/
theorem State.emitTick_endOfRound (h : (s.inRound n r).Inv) (hrr : s.rr = 0) (hsums : s.leftSum = 0 ∧ s.rightSum = 0)
    (hlast : n + Spec.pair s = s.cfg.voiceCount) : (s.inRound n r).emitTick = s.afterRound := by
  have hten : s.cfg.voiceCount ≤ 10 := h.voices_le_ten
  obtain ⟨hleft, hright⟩ := State.mixed_inRound (s := s) (r := r) (show n ≤ 10 by omega)
  rw [h.emitTick_last hlast, State.roundRight, hleft, hright, s.advanced_inRound, hlast]
  simp only [State.afterRound, hrr, hsums]
  rfl

/-- The TICKs that are left of a round, one after another. -/
theorem State.perform_restOfRound (hfull : s.cfg.sampleRateDivider = .full) (hrr : s.rr = 0)
    (hsums : s.leftSum = 0 ∧ s.rightSum = 0) (k : Nat) (h : (s.inRound n r).Inv)
    (hrest : n + (k + 1) * Spec.pair s = s.cfg.voiceCount) :
    perform (List.replicate (k + 1) .tick) (s.inRound n r) = .next s.afterRound := by
  have htick : exec .tick (s.inRound n r) = .next (s.inRound n r).emitTick := exec_tick_of_full hfull
  induction k generalizing n r with
  | zero => exact perform_one (htick.trans (congrArg _ (State.emitTick_endOfRound h hrr hsums (by omega))))
  | succ k ih =>
    have hpair : 0 < Spec.pair s := by unfold Spec.pair; split <;> decide
    have hlt : n + Spec.pair s < s.cfg.voiceCount := by
      have hmore : 0 < (k + 1) * Spec.pair s := Nat.mul_pos k.succ_pos hpair
      rw [Nat.succ_mul] at hrest
      omega
    have hinv := inv_performs h (performs_of_exec htick)
    rw [State.emitTick_inRound h hlt] at htick hinv
    rw [List.replicate_succ, perform_cons _ htick]
    exact ih hinv (by rw [← hrest, Nat.succ_mul (k + 1)]; omega) (exec_tick_of_full hfull)

/-- A round starts with the sums at 0, by their bound (10_state R27). -/
theorem State.Inv.sums_at_start (h : s.Inv) (hrr : s.rr = 0) : s.leftSum = 0 ∧ s.rightSum = 0 := by
  have hleft := h.leftBound
  have hright := h.rightBound
  rw [hrr, Nat.zero_mul] at hleft hright
  exact ⟨BitVec.eq_of_toNat_eq (Nat.le_zero.mp hleft), BitVec.eq_of_toNat_eq (Nat.le_zero.mp hright)⟩

/-- At its start no voice of a round has advanced. -/
theorem State.inRound_zero (hrr : s.rr = 0) (hsums : s.leftSum = 0 ∧ s.rightSum = 0) :
    s.inRound 0 s.response = s := by
  have hvoices : Spec.advanced s 0 0 = s.voices := List.ext_getElem? fun v => by simp [Spec.advanced]
  obtain ⟨hleft, hright⟩ := hsums
  rw [State.inRound, hvoices]
  cases s
  subst hrr hleft hright
  rfl

end

/-- Settles O19: the VoiceCount voices are a whole number of TICKs, and the TICKs from the start of the round reach its
end. -/
theorem roundEmitsTheExactMix : Obligations.RoundEmitsTheExactMix := by
  intro s h hfull hrr outL outR
  have hsums := h.sums_at_start hrr
  have hstart := State.inRound_zero hrr hsums
  have hticks : s.cfg.voiceCount / Spec.pair s * Spec.pair s = s.cfg.voiceCount := by
    have heven := h.voices_even
    unfold Spec.pair
    split <;> omega
  obtain ⟨k, hk⟩ : ∃ k, s.cfg.voiceCount / Spec.pair s = k + 1 := by
    have htwo := h.voices_ge_two
    refine Nat.exists_eq_succ_of_ne_zero fun hzero => ?_
    rw [hzero, Nat.zero_mul] at hticks
    omega
  have hround := State.perform_restOfRound (r := s.response) hfull hrr hsums k (hstart.symm ▸ h) (by rw [← hk]; omega)
  rw [hstart] at hround
  exact hk ▸ hround

end Sys2Proof.Machine
end
